-- ==== Sys2Proof/Word.lean ====
section
/-! DEFINITION. The widths of spec/00_scope.md rules R5 and R7, and the two shapes in which the block holds
bytes: an address-keyed memory and a byte sequence of known length. Nothing here computes an effect. -/

namespace Sys2Proof

/-- `DATA_BITS` = 8 (R5): every transfer of the block moves one byte. -/
abbrev Byte := BitVec 8

/-- `ADDR_BITS` = 16 (R5): a logical address. -/
abbrev Addr := BitVec 16

/-- The 24-bit field `A` of a command word, and the 24-bit result field `RVAL` (R90, R91). -/
abbrev Num24 := BitVec 24

/-- A command word of format `CMD56` (R90). -/
abbrev CmdWord := BitVec 56

/-- A response word of format `RESP36` (R91). -/
abbrev RespWord := BitVec 36

/-- A memory: pairs (address, byte), addresses strictly rising, no pair holding the byte that an unlisted
address reads as (`Config.fill`). Canonical form: `Memory.wf` of Machine/Bytes.lean; log entry 3. -/
abbrev Memory := List Host.Cell

/-- A sequence of `size` bytes: the cartridge images `ROM` and `STAGE` (R23, R24), a command's payload and a
save-state record (R93, R225). `cells` lists the bytes other than `Config.fill`, in the form of `Memory`. -/
structure ByteSeq where
  size : Nat
  cells : Memory
deriving DecidableEq, Repr

end Sys2Proof
end

