-- ==== Sys2Proof/Config.lean ====
section
/-! DEFINITION. The implementation parameters of spec/00_scope.md rule R5, and the values the spec leaves
open, which have no body. -/

namespace Sys2Proof.Config

/-- `MAP_SIZE` (R5, R21). -/
abbrev mapSize : Nat := 65536

/-- `BANK_SIZE` (R5): size of a ROM bank, a RAM bank and a window. -/
abbrev bankSize : Nat := 16384

/-- `CRAM_SIZE` (R5, R28): two banks of cartridge RAM. -/
abbrev cramSize : Nat := 32768

/-- `DIRECT_BASE` (R5, R62): the first directly mapped address. -/
abbrev directBase : Nat := 0xC000

/-- `SEGA_CTRL_ADDR` (R5, R150): the first of the four Sega register bytes. -/
abbrev segaRegBase : Nat := 0xFFFC

/-- `ROM_MIN` (R5, R194), and the granularity LOADROM asks of every image. -/
abbrev romMin : Nat := 8192

/-- `ROM_MAX` (R5, R194). -/
abbrev romMax : Nat := 4194304

/-- `OPEN_BUS` (R5, R84): the byte of an address the active rule does not recognise. -/
abbrev openBus : Byte := 0xFF

/-- `RAM_FILL` (R5): the byte INIT and RESET store in the flat map (and INIT and SETRULE in cartridge RAM).
It is also what an address that no pair of a `Memory` lists reads as. -/
abbrev fill : Byte := 0x00

/-- `BP_MAX` (R5, R245; decision D29 leaves it OPEN): the capacity of the breakpoint table, an argument of
the model. No body: log entry 7. -/
opaque bpMax : Nat

/-- A FREE VALUE (R232, spec/93 item 1): what one cell holds after a failed LOADSTATE. `draw` is the number
of failed LOADSTATEs before this one (State's own counter), `index` the cell's place in the family's
save-state record, `old` the byte it held, `sent` the byte the rejected record carries there. No body, so
nothing can be proved of the result: log entry 8. -/
opaque mismatchByte (draw index : Nat) (old sent : Byte) : Byte

/-- A FREE VALUE: the `RVAL` of BPCOUNT for a count of 2^24 or more. `RVAL` has 24 bits (R91), `BP_MAX` is open
(R5), and R247 does not say what is returned for a count that does not fit. No body, so nothing can be proved of
the result: DESIGN CHOICE, log entry 15. -/
opaque wideCount (count : Nat) : Num24

end Sys2Proof.Config
end

