-- ==== Sys2Proof/Machine/Bytes.lean ====
section
/-! DEFINITION. The operations on a `Memory` and on a `ByteSeq`, and their canonical form. Each is by
structural recursion on the list, so that it can be evaluated. -/

namespace Sys2Proof

/-- One byte of a memory; an address no pair lists reads as `Config.fill` (log entry 3). -/
def Memory.read : Memory → Nat → Byte
  | [], _ => Config.fill
  | (k, b) :: rest, a => if k = a then b else Memory.read rest a

/-- The memory without the cell at `a`: it reads as `Config.fill` there. -/
def Memory.erase (m : Memory) (a : Nat) : Memory := m.filter fun c => decide (c.1 ≠ a)

/-- Add a cell that is not listed, before the first with a higher address. -/
def Memory.insert : Memory → Nat → Byte → Memory
  | [], a, v => [(a, v)]
  | (k, b) :: rest, a, v => if a < k then (a, v) :: (k, b) :: rest else (k, b) :: Memory.insert rest a v

/-- Store one byte, keeping the canonical form: storing `Config.fill` removes the pair. -/
def Memory.write (m : Memory) (a : Nat) (v : Byte) : Memory :=
  if v = Config.fill then m.erase a else (m.erase a).insert a v

/-- All pairs have addresses from `lo` on, strictly rising and below `hi`, and none holds `Config.fill`. -/
def Memory.wfFrom : Memory → Nat → Nat → Bool
  | [], _, _ => true
  | (k, b) :: rest, lo, hi =>
    decide (lo ≤ k) && decide (k < hi) && decide (b ≠ Config.fill) && Memory.wfFrom rest (k + 1) hi

/-- The canonical form of a memory of `size` cells. -/
def Memory.wf (m : Memory) (size : Nat) : Bool := Memory.wfFrom m 0 size

/-- The `len` cells of `m` from address `base` on, as a memory of its own that starts at address 0. -/
def Memory.slice (m : Memory) (base len : Nat) : Memory :=
  m.filterMap fun c => if base ≤ c.1 ∧ c.1 < base + len then some (c.1 - base, c.2) else none

/-- The cells of `m` moved up to start at address `base`. -/
def Memory.shift (m : Memory) (base : Nat) : Memory := m.map fun c => (base + c.1, c.2)

/-- The bytes of a list at the addresses from `base` on. -/
def Memory.ofBytes : Nat → List Byte → Memory
  | _, [] => []
  | base, b :: rest =>
    if b = Config.fill then Memory.ofBytes (base + 1) rest else (base, b) :: Memory.ofBytes (base + 1) rest

/-- The memory whose cell `a`, for `a < size`, holds `f a`. -/
def Memory.tabulate (size : Nat) (f : Nat → Byte) : Memory :=
  (List.range size).filterMap fun a => if f a = Config.fill then none else some (a, f a)

/-- Byte `i` of a sequence (`in[i]`, `ROM[p]`, `s[i]` of R8). Past the end of the sequence the spec gives no
byte; no rule reads there in a state a run reaches (R68), see log entry 9. -/
def ByteSeq.get (q : ByteSeq) (i : Nat) : Byte := q.cells.read i

/-- The canonical form of a sequence: its cells are those of a memory of its size. -/
def ByteSeq.wf (q : ByteSeq) : Bool := q.cells.wf q.size

/-- A payload of exactly the number of bytes the command word announces (R93, R304 (d)), in canonical form. -/
def payloadOk (size : Num24) (data : ByteSeq) : Bool := decide (data.size = size.toNat) && data.wf

/-- The empty sequence: no image, no payload, no output stream. -/
def ByteSeq.empty : ByteSeq := { size := 0, cells := [] }

/-- `n` bytes 0x00. -/
def ByteSeq.zeros (n : Nat) : ByteSeq := { size := n, cells := [] }

/-- The sequence of a list of bytes, the byte with the lowest index first (R70). -/
def ByteSeq.ofList (l : List Byte) : ByteSeq := { size := l.length, cells := Memory.ofBytes 0 l }

/-- The bytes of a sequence in the order they are transferred (R70). -/
def ByteSeq.toList (q : ByteSeq) : List Byte := (List.range q.size).map q.get

end Sys2Proof
end

