-- ==== Sys2Proof/Syntax.lean ====
section
/-! DEFINITION. The instructions of spec/opcode_table.json: the 24 commands of format `CMD56`
(spec/30_encoding.md rule R92) and the 36 address-decode rows of format `ADDR16` (rule R96). -/

namespace Sys2Proof

/-- The active rule's family, `FAMILY` (R22). The tag of each is `Family.tag` (R99). -/
inductive Family
  /-- `None`: no rule installed (R125). -/
  | noRule
  | romOnly
  | sega
  | codemasters
  | korean
  | sg1000
deriving DecidableEq, Repr

/-- The two command ports (R90, R279). -/
inductive Port
  | cpu
  | host
deriving DecidableEq, Repr

/-- The direction of an access inside the address decoder (R95). -/
inductive Dir
  | read
  | write
deriving DecidableEq, Repr

/-- The names of the 36 address-decode rows of R96, in the table's order. -/
inductive Row
  | noneRDirect | noneRRest | noneWDirect | noneWRest
  | romOnlyRDirect | romOnlyRRest | romOnlyWDirect | romOnlyWRest
  | sg1000RDirect | sg1000RRest | sg1000WDirect | sg1000WRest
  | segaRRegs | segaRDirect | segaRWin2Cram | segaRWin2Rom | segaRWin01
  | segaWCtrl | segaWX0 | segaWX1 | segaWX2 | segaWDirect | segaWWin2Cram | segaWRest
  | codemastersRDirect | codemastersRRest
  | codemastersWX0 | codemastersWX1 | codemastersWX2 | codemastersWDirect | codemastersWRest
  | koreanRDirect | koreanRRest | koreanWX2 | koreanWDirect | koreanWRest
deriving DecidableEq, Repr

/-- One constructor per row of spec/opcode_table.json. A command carries the operands R94 assembles for it
(fields it ignores, R103, are not part of it); LOADROM and LOADSTATE carry their payload (R93). An
address-decode row carries the logical address, where its mask leaves one open, and the byte written. -/
inductive Instr
  -- CPU port (spec/40_cpu_access.md)
  | read (addr : Addr) (pc : BitVec 16)
  | write (addr : Addr) (pc : BitVec 16) (value : Byte)
  -- lifecycle (spec/45_lifecycle.md)
  | init
  | reset
  | loadrom (size : Num24) (data : ByteSeq)
  | setrule (tag : Byte)
  | getrule
  -- direct access (spec/46_direct_and_introspection.md)
  | retrieve (addr : Addr)
  | load (addr : Addr) (value : Byte)
  -- state serialization (spec/47_save_state.md)
  | statesize
  | savestate (bufsize : Num24)
  | loadstate (size : Num24) (data : ByteSeq)
  -- debug (spec/48_debug.md)
  | bpadd (addr : Num24) (qual : Option Byte)
  | bpremove (addr : Num24) (qual : Option Byte)
  | bpcount
  | bplist (index : Num24)
  | runtoset (addr : Num24) (qual : Option Byte)
  | runtoclear
  | getrunto
  -- introspection (spec/46_direct_and_introspection.md)
  | rombank (window : BitVec 2)
  | rambank
  | peekrom (offset : Num24)
  | peekcram (offset : Num24)
  | pokecram (offset : Num24) (value : Byte)
  -- address-decode rows, no rule installed (R125)
  | noneRDirect (addr : Addr)
  | noneRRest (addr : Addr)
  | noneWDirect (addr : Addr) (value : Byte)
  | noneWRest (addr : Addr) (value : Byte)
  -- RomOnly and SG1000 (spec/41_mapper_unbanked.md)
  | romOnlyRDirect (addr : Addr)
  | romOnlyRRest (addr : Addr)
  | romOnlyWDirect (addr : Addr) (value : Byte)
  | romOnlyWRest (addr : Addr) (value : Byte)
  | sg1000RDirect (addr : Addr)
  | sg1000RRest (addr : Addr)
  | sg1000WDirect (addr : Addr) (value : Byte)
  | sg1000WRest (addr : Addr) (value : Byte)
  -- Sega (spec/42_mapper_sega.md)
  | segaRRegs (addr : Addr)
  | segaRDirect (addr : Addr)
  | segaRWin2Cram (addr : Addr)
  | segaRWin2Rom (addr : Addr)
  | segaRWin01 (addr : Addr)
  | segaWCtrl (value : Byte)
  | segaWX0 (value : Byte)
  | segaWX1 (value : Byte)
  | segaWX2 (value : Byte)
  | segaWDirect (addr : Addr) (value : Byte)
  | segaWWin2Cram (addr : Addr) (value : Byte)
  | segaWRest (addr : Addr) (value : Byte)
  -- Codemasters (spec/43_mapper_codemasters.md)
  | codemastersRDirect (addr : Addr)
  | codemastersRRest (addr : Addr)
  | codemastersWX0 (value : Byte)
  | codemastersWX1 (value : Byte)
  | codemastersWX2 (value : Byte)
  | codemastersWDirect (addr : Addr) (value : Byte)
  | codemastersWRest (addr : Addr) (value : Byte)
  -- Korean (spec/44_mapper_korean.md)
  | koreanRDirect (addr : Addr)
  | koreanRRest (addr : Addr)
  | koreanWX2 (value : Byte)
  | koreanWDirect (addr : Addr) (value : Byte)
  | koreanWRest (addr : Addr) (value : Byte)
deriving DecidableEq, Repr

end Sys2Proof
end

