-- ==== Sys2Proof/Decode.lean ====
section
/-! DEFINITION. The decoders and the encoder of spec/30_encoding.md: the command word (R90 to R94, R102,
R103), the address decoder (R95, R96), the family tag (R99), and `encode`, written from the same tables.
The two words 'instruction' of the spec's INDEX are both here: a command, and an address-decode row. -/

namespace Sys2Proof

/-- Why the decoder rejects a code. -/
inductive Reject
  /-- `CMD` is none of the 24 codes of R92 (R102 (a)). -/
  | reservedCommand (code : Byte)
  /-- READ, WRITE, RETRIEVE or LOAD with `A[23:16]` other than 0x00 (R102 (b)). -/
  | wideAddress (a : Num24)
  /-- No address-decode row matches; every group of R96 ends in a row that matches, so this is never given. -/
  | noRow
deriving DecidableEq, Repr

/-! ### Tags and fields -/

/-- The family tag `FAMTAG8` (R99). -/
def Family.tag : Family → Byte
  | .noRule => 0x00
  | .romOnly => 0x01
  | .sega => 0x02
  | .codemasters => 0x03
  | .korean => 0x04
  | .sg1000 => 0x05

/-- The family of a tag; 0x06–0xFF are unrecognised (R99). -/
def Family.ofTag (t : Byte) : Option Family :=
  if t = 0x00 then some .noRule
  else if t = 0x01 then some .romOnly
  else if t = 0x02 then some .sega
  else if t = 0x03 then some .codemasters
  else if t = 0x04 then some .korean
  else if t = 0x05 then some .sg1000
  else none

/-- The command word of its four fields, `{CMD, A, P, D}` (R90). -/
def mkWord (cmd : Byte) (a : Num24) (p : BitVec 16) (d : Byte) : CmdWord := cmd ++ a ++ p ++ d

/-- `CMD`, bits 55:48 (R90). -/
def cmdField (w : CmdWord) : Byte := w.extractLsb' 48 8

/-- `A`, bits 47:24 (R90). -/
def aField (w : CmdWord) : Num24 := w.extractLsb' 24 24

/-- `P`, bits 23:8 (R90). -/
def pField (w : CmdWord) : BitVec 16 := w.extractLsb' 8 16

/-- `D`, bits 7:0 (R90). -/
def dField (w : CmdWord) : Byte := w.extractLsb' 0 8

/-- The bank qualifier inside `P` (`QUAL9`, R108): present when `P[8] = 1`, then `P[7:0]`. -/
def qualOf (p : BitVec 16) : Option Byte :=
  if p.getLsbD 8 then some (p.extractLsb' 0 8) else none

/-- The `P` field of a qualifier, its ignored bits 0 (R108, R106). -/
def qualField : Option Byte → BitVec 16
  | none => 0x0000
  | some b => 0x01#8 ++ b

/-- The port that accepts a command: the CPU port READ and WRITE only, the host port every other
(R92, R279). -/
def commandPort (cmd : Byte) : Port :=
  if cmd = 0x00 then .cpu else if cmd = 0x01 then .cpu else .host

/-- How many payload bytes follow a command word: `A` after LOADROM and LOADSTATE, none otherwise (R93). -/
def payloadLength (w : CmdWord) : Nat :=
  if cmdField w = 0x12 then (aField w).toNat
  else if cmdField w = 0x32 then (aField w).toNat
  else 0

/-! ### Commands -/

/-- A command whose address operand is `A[15:0]`: the word is illegal unless `A[23:16] = 0x00`
(R94 (a), R102 (b)). -/
def withAddr16 (a : Num24) (i : Addr → Instr) : Except Reject Instr :=
  if a.extractLsb' 16 8 = 0x00 then .ok (i (a.extractLsb' 0 16)) else .error (.wideAddress a)

/-- The command a command word and its payload spell (R92, R94). SETRULE's illegal tags (R102 (c)) are those
of a term that is not well formed; its meaning answers them with `ILLEGAL_CMD` (log entry 10). -/
def decodeWord (w : CmdWord) (data : ByteSeq) : Except Reject Instr :=
  let a := aField w
  let p := pField w
  let d := dField w
  match cmdField w with
  | 0x00#8 => withAddr16 a fun x => .read x p
  | 0x01#8 => withAddr16 a fun x => .write x p d
  | 0x10#8 => .ok .init
  | 0x11#8 => .ok .reset
  | 0x12#8 => .ok (.loadrom a data)
  | 0x13#8 => .ok (.setrule d)
  | 0x14#8 => .ok .getrule
  | 0x20#8 => withAddr16 a fun x => .retrieve x
  | 0x21#8 => withAddr16 a fun x => .load x d
  | 0x30#8 => .ok .statesize
  | 0x31#8 => .ok (.savestate a)
  | 0x32#8 => .ok (.loadstate a data)
  | 0x40#8 => .ok (.bpadd a (qualOf p))
  | 0x41#8 => .ok (.bpremove a (qualOf p))
  | 0x42#8 => .ok .bpcount
  | 0x43#8 => .ok (.bplist a)
  | 0x44#8 => .ok (.runtoset a (qualOf p))
  | 0x45#8 => .ok .runtoclear
  | 0x46#8 => .ok .getrunto
  | 0x50#8 => .ok (.rombank (d.extractLsb' 0 2))
  | 0x51#8 => .ok .rambank
  | 0x52#8 => .ok (.peekrom a)
  | 0x53#8 => .ok (.peekcram a)
  | 0x54#8 => .ok (.pokecram a d)
  | c => .error (.reservedCommand c)

/-! ### The address decoder -/

/-- One row of R96: the row wins when the family and direction are its own, `(a and mask) = pat`, and its
condition on `CTRL[3]`, where it has one, holds (R95). -/
structure RowSpec where
  row : Row
  family : Family
  dir : Dir
  pat : Addr
  mask : Addr
  ramen : Option Bool
deriving DecidableEq, Repr

/-- The `noRule` rows of R96, in priority order inside each direction. -/
def noneRows : List RowSpec := [
  ⟨.noneRDirect, .noRule, .read, 0xC000, 0xC000, none⟩,
  ⟨.noneRRest, .noRule, .read, 0x0000, 0x0000, none⟩,
  ⟨.noneWDirect, .noRule, .write, 0xC000, 0xC000, none⟩,
  ⟨.noneWRest, .noRule, .write, 0x0000, 0x0000, none⟩]

/-- The `romOnly` rows of R96, in priority order inside each direction. -/
def romOnlyRows : List RowSpec := [
  ⟨.romOnlyRDirect, .romOnly, .read, 0xC000, 0xC000, none⟩,
  ⟨.romOnlyRRest, .romOnly, .read, 0x0000, 0x0000, none⟩,
  ⟨.romOnlyWDirect, .romOnly, .write, 0xC000, 0xC000, none⟩,
  ⟨.romOnlyWRest, .romOnly, .write, 0x0000, 0x0000, none⟩]

/-- The `sg1000` rows of R96, in priority order inside each direction. -/
def sg1000Rows : List RowSpec := [
  ⟨.sg1000RDirect, .sg1000, .read, 0xC000, 0xC000, none⟩,
  ⟨.sg1000RRest, .sg1000, .read, 0x0000, 0x0000, none⟩,
  ⟨.sg1000WDirect, .sg1000, .write, 0xC000, 0xC000, none⟩,
  ⟨.sg1000WRest, .sg1000, .write, 0x0000, 0x0000, none⟩]

/-- The `sega` rows of R96, in priority order inside each direction. -/
def segaRows : List RowSpec := [
  ⟨.segaRRegs, .sega, .read, 0xFFFC, 0xFFFC, none⟩,
  ⟨.segaRDirect, .sega, .read, 0xC000, 0xC000, none⟩,
  ⟨.segaRWin2Cram, .sega, .read, 0x8000, 0xC000, (some true)⟩,
  ⟨.segaRWin2Rom, .sega, .read, 0x8000, 0xC000, (some false)⟩,
  ⟨.segaRWin01, .sega, .read, 0x0000, 0x0000, none⟩,
  ⟨.segaWCtrl, .sega, .write, 0xFFFC, 0xFFFF, none⟩,
  ⟨.segaWX0, .sega, .write, 0xFFFD, 0xFFFF, none⟩,
  ⟨.segaWX1, .sega, .write, 0xFFFE, 0xFFFF, none⟩,
  ⟨.segaWX2, .sega, .write, 0xFFFF, 0xFFFF, none⟩,
  ⟨.segaWDirect, .sega, .write, 0xC000, 0xC000, none⟩,
  ⟨.segaWWin2Cram, .sega, .write, 0x8000, 0xC000, (some true)⟩,
  ⟨.segaWRest, .sega, .write, 0x0000, 0x0000, none⟩]

/-- The `codemasters` rows of R96, in priority order inside each direction. -/
def codemastersRows : List RowSpec := [
  ⟨.codemastersRDirect, .codemasters, .read, 0xC000, 0xC000, none⟩,
  ⟨.codemastersRRest, .codemasters, .read, 0x0000, 0x0000, none⟩,
  ⟨.codemastersWX0, .codemasters, .write, 0x0000, 0xFFFF, none⟩,
  ⟨.codemastersWX1, .codemasters, .write, 0x4000, 0xFFFF, none⟩,
  ⟨.codemastersWX2, .codemasters, .write, 0x8000, 0xFFFF, none⟩,
  ⟨.codemastersWDirect, .codemasters, .write, 0xC000, 0xC000, none⟩,
  ⟨.codemastersWRest, .codemasters, .write, 0x0000, 0x0000, none⟩]

/-- The `korean` rows of R96, in priority order inside each direction. -/
def koreanRows : List RowSpec := [
  ⟨.koreanRDirect, .korean, .read, 0xC000, 0xC000, none⟩,
  ⟨.koreanRRest, .korean, .read, 0x0000, 0x0000, none⟩,
  ⟨.koreanWX2, .korean, .write, 0xA000, 0xFFFF, none⟩,
  ⟨.koreanWDirect, .korean, .write, 0xC000, 0xC000, none⟩,
  ⟨.koreanWRest, .korean, .write, 0x0000, 0x0000, none⟩]

/-- The address-decode table of R96. -/
def addrTable : List RowSpec :=
  noneRows ++ romOnlyRows ++ sg1000Rows ++ segaRows ++ codemastersRows ++ koreanRows

/-- Whether a row matches an access; `ramen` is `CTRL[3]` (R95). -/
def RowSpec.hits (r : RowSpec) (fam : Family) (dir : Dir) (ramen : Bool) (a : Addr) : Bool :=
  decide (r.family = fam) && decide (r.dir = dir) && decide (a &&& r.mask = r.pat) &&
    (match r.ramen with
     | none => true
     | some c => decide (ramen = c))

/-- The row that wins: the first that matches, in the table's order (R95). -/
def selectRow (fam : Family) (dir : Dir) (ramen : Bool) (a : Addr) : Option Row :=
  (addrTable.find? fun r => r.hits fam dir ramen a).map (·.row)

/-- The instruction a row stands for, with the access's address and written byte as its operands. -/
def Row.instr (row : Row) (a : Addr) (v : Byte) : Instr :=
  match row with
  | .noneRDirect => .noneRDirect a
  | .noneRRest => .noneRRest a
  | .noneWDirect => .noneWDirect a v
  | .noneWRest => .noneWRest a v
  | .romOnlyRDirect => .romOnlyRDirect a
  | .romOnlyRRest => .romOnlyRRest a
  | .romOnlyWDirect => .romOnlyWDirect a v
  | .romOnlyWRest => .romOnlyWRest a v
  | .sg1000RDirect => .sg1000RDirect a
  | .sg1000RRest => .sg1000RRest a
  | .sg1000WDirect => .sg1000WDirect a v
  | .sg1000WRest => .sg1000WRest a v
  | .segaRRegs => .segaRRegs a
  | .segaRDirect => .segaRDirect a
  | .segaRWin2Cram => .segaRWin2Cram a
  | .segaRWin2Rom => .segaRWin2Rom a
  | .segaRWin01 => .segaRWin01 a
  | .segaWCtrl => .segaWCtrl v
  | .segaWX0 => .segaWX0 v
  | .segaWX1 => .segaWX1 v
  | .segaWX2 => .segaWX2 v
  | .segaWDirect => .segaWDirect a v
  | .segaWWin2Cram => .segaWWin2Cram a v
  | .segaWRest => .segaWRest a v
  | .codemastersRDirect => .codemastersRDirect a
  | .codemastersRRest => .codemastersRRest a
  | .codemastersWX0 => .codemastersWX0 v
  | .codemastersWX1 => .codemastersWX1 v
  | .codemastersWX2 => .codemastersWX2 v
  | .codemastersWDirect => .codemastersWDirect a v
  | .codemastersWRest => .codemastersWRest a v
  | .koreanRDirect => .koreanRDirect a
  | .koreanRRest => .koreanRRest a
  | .koreanWX2 => .koreanWX2 v
  | .koreanWDirect => .koreanWDirect a v
  | .koreanWRest => .koreanWRest a v

/-- The address-decode row of an access by the active family (R95, R96). -/
def decodeAccess (fam : Family) (dir : Dir) (ramen : Bool) (a : Addr) (v : Byte) : Except Reject Instr :=
  match selectRow fam dir ramen a with
  | some row => .ok (row.instr a v)
  | none => .error .noRow

/-! ### Both decoders as one, and the encoder -/

/-- What a decoder is given: a command word and its payload at a port (R90, R93), or an access at the address
decoder (R95). -/
inductive Code
  | cmd (word : CmdWord) (data : ByteSeq)
  | access (fam : Family) (dir : Dir) (ramen : Bool) (a : Addr) (v : Byte)
deriving DecidableEq, Repr

/-- The decoder, total on every code. -/
def decode : Code → Except Reject Instr
  | .cmd w data => decodeWord w data
  | .access fam dir ramen a v => decodeAccess fam dir ramen a v

/-- The code of a command from its fields, unused fields 0 (R106). -/
def cmdCode (cmd : Byte) (a : Num24) (p : BitVec 16) (d : Byte) : Code := .cmd (mkWord cmd a p d) ByteSeq.empty

/-- `A` of a 16-bit address: `A[23:16] = 0x00` (R94 (a)). -/
def a16 (a : Addr) : Num24 := 0x00#8 ++ a

/-- The code of an instruction, written from R92, R94 and R96. -/
def encode : Instr → Code
  | .read a p => cmdCode 0x00 (a16 a) p 0
  | .write a p v => cmdCode 0x01 (a16 a) p v
  | .init => cmdCode 0x10 0 0 0
  | .reset => cmdCode 0x11 0 0 0
  | .loadrom n data => .cmd (mkWord 0x12 n 0 0) data
  | .setrule t => cmdCode 0x13 0 0 t
  | .getrule => cmdCode 0x14 0 0 0
  | .retrieve a => cmdCode 0x20 (a16 a) 0 0
  | .load a v => cmdCode 0x21 (a16 a) 0 v
  | .statesize => cmdCode 0x30 0 0 0
  | .savestate n => cmdCode 0x31 n 0 0
  | .loadstate n data => .cmd (mkWord 0x32 n 0 0) data
  | .bpadd a q => cmdCode 0x40 a (qualField q) 0
  | .bpremove a q => cmdCode 0x41 a (qualField q) 0
  | .bpcount => cmdCode 0x42 0 0 0
  | .bplist i => cmdCode 0x43 i 0 0
  | .runtoset a q => cmdCode 0x44 a (qualField q) 0
  | .runtoclear => cmdCode 0x45 0 0 0
  | .getrunto => cmdCode 0x46 0 0 0
  | .rombank w => cmdCode 0x50 0 0 (0#6 ++ w)
  | .rambank => cmdCode 0x51 0 0 0
  | .peekrom p => cmdCode 0x52 p 0 0
  | .peekcram c => cmdCode 0x53 c 0 0
  | .pokecram c v => cmdCode 0x54 c 0 v
  | .noneRDirect a => .access .noRule .read false a 0
  | .noneRRest a => .access .noRule .read false a 0
  | .noneWDirect a v => .access .noRule .write false a v
  | .noneWRest a v => .access .noRule .write false a v
  | .romOnlyRDirect a => .access .romOnly .read false a 0
  | .romOnlyRRest a => .access .romOnly .read false a 0
  | .romOnlyWDirect a v => .access .romOnly .write false a v
  | .romOnlyWRest a v => .access .romOnly .write false a v
  | .sg1000RDirect a => .access .sg1000 .read false a 0
  | .sg1000RRest a => .access .sg1000 .read false a 0
  | .sg1000WDirect a v => .access .sg1000 .write false a v
  | .sg1000WRest a v => .access .sg1000 .write false a v
  | .segaRRegs a => .access .sega .read false a 0
  | .segaRDirect a => .access .sega .read false a 0
  | .segaRWin2Cram a => .access .sega .read true a 0
  | .segaRWin2Rom a => .access .sega .read false a 0
  | .segaRWin01 a => .access .sega .read false a 0
  | .segaWCtrl v => .access .sega .write false 0xFFFC v
  | .segaWX0 v => .access .sega .write false 0xFFFD v
  | .segaWX1 v => .access .sega .write false 0xFFFE v
  | .segaWX2 v => .access .sega .write false 0xFFFF v
  | .segaWDirect a v => .access .sega .write false a v
  | .segaWWin2Cram a v => .access .sega .write true a v
  | .segaWRest a v => .access .sega .write false a v
  | .codemastersRDirect a => .access .codemasters .read false a 0
  | .codemastersRRest a => .access .codemasters .read false a 0
  | .codemastersWX0 v => .access .codemasters .write false 0x0000 v
  | .codemastersWX1 v => .access .codemasters .write false 0x4000 v
  | .codemastersWX2 v => .access .codemasters .write false 0x8000 v
  | .codemastersWDirect a v => .access .codemasters .write false a v
  | .codemastersWRest a v => .access .codemasters .write false a v
  | .koreanRDirect a => .access .korean .read false a 0
  | .koreanRRest a => .access .korean .read false a 0
  | .koreanWX2 v => .access .korean .write false 0xA000 v
  | .koreanWDirect a v => .access .korean .write false a v
  | .koreanWRest a v => .access .korean .write false a v

/-! ### The opcode table's numbering -/

/-- The code whose bits spec/opcode_table.json numbers as `w`. A row of 56 bits is a command word, its payload
(the bits above) all zero. A row of 16 bits is a logical address; the table gives the family, the direction,
the condition and the byte no bits, so the bits for them are 0: no rule, a read, `CTRL[3] = 0`
(log entry 11). -/
def tableCode (nbits w : Nat) : Code :=
  if nbits ≤ 16 then .access .noRule .read false (BitVec.ofNat 16 w) 0
  else .cmd (BitVec.ofNat 56 w) (ByteSeq.zeros (payloadLength (BitVec.ofNat 56 w)))

/-- The instruction the decoder reads from an instruction whose bits are `w`. -/
def decodeTableWord (nbits w : Nat) : Option Instr := (decode (tableCode nbits w)).toOption

end Sys2Proof
end

