-- ==== Sys2Proof/Machine/State.lean ====
section
/-! DEFINITION. The state of GSMEM (spec/10_state.md rule R20), the block's two ports (R90, R91), the reasons
a step can stop, and the state after reset (R35, column 'after INIT'). -/

namespace Sys2Proof.Machine

/-- One registered breakpoint (R20, R245). -/
structure Breakpoint where
  addr : Addr
  qual : Option Byte
deriving DecidableEq, Repr

/-- The status of a response, `STATUS4` (R100). -/
inductive Status
  | ok
  | invalidImage
  | unsupportedImage
  | stateMismatch
  | noRule
  | illegalCmd
  | bufferTooSmall
  | ignored
deriving DecidableEq, Repr

/-- What a command returns: the fields of its response word (`RESP36`, R91) and the output stream, which only
SAVESTATE fills (R93). The word itself is `Response.word`. -/
structure Response where
  status : Status
  rdata : Byte
  rval : Num24
  stream : ByteSeq
deriving DecidableEq, Repr

/-- When, by the agents' own rules, a command is issued (R80, R304). -/
inductive Timing
  /-- Between two completed CPU instructions. -/
  | quiescent
  /-- Between the accesses of one CPU instruction. -/
  | midInstruction
  /-- Before the previous command's response and streams are complete. -/
  | overlapping
deriving DecidableEq, Repr

/-- One command at a port: its 56-bit word and the payload bytes that follow it (R90, R93). `timing` is what
the harness knows of the CPU's instruction boundaries (R304 (c), (e)). -/
structure Request where
  port : Port
  timing : Timing
  word : CmdWord
  payload : ByteSeq
deriving DecidableEq, Repr

/-- Why the machine faults: never. No access faults and no error is a trap (R69, R265, R274), so the type has
no constructor. -/
inductive Fault
deriving DecidableEq, Repr

/-- Why a command is refused: the spec gives it no meaning 'and a model must refuse it' (R10, R304). All safe:
nothing can be proved of what the block would do. -/
inductive Refusal
  /-- Raised by an arm of `exec` whose instruction has no meaning yet; no arm is one. Safe. -/
  | notModelled (mnemonic : String)
  /-- Raised by `step`: a command other than INIT before the first INIT (R36, R304 (a)). Safe. -/
  | beforeInit
  /-- Raised by `step`: a command on the port that does not accept it (R279, R304 (b)). Safe. -/
  | wrongPort
  /-- Raised by `step`: a host command between the accesses of one CPU instruction (R80, R304 (c)). Safe. -/
  | midInstruction
  /-- Raised by `step`, and by LOADROM and LOADSTATE: a payload that is not exactly the bytes the command word
  announces (R93, R304 (d)). Safe. -/
  | streamLength
  /-- Raised by `step`: a command before the previous one is complete (R304 (e)). Safe. -/
  | overlap
  /-- Raised by the meaning of an address-decode row in a state whose family and `CTRL[3]` select another row
  for the address (R95). READ and WRITE never raise it: they run the row that is selected. Safe. -/
  | rowNotSelected (row : Row)
deriving DecidableEq, Repr

/-- The state. The first fourteen fields are R20's tuple, element by element, and `Sys2Proof.ByteSeq` holds an
image with its size. The last four are the model's own: whether INIT has run (R36), the count that numbers the
free values (log entry 8), the commands waiting at the ports and the response on them (log entries 2, 4). -/
structure State where
  /-- `MAP[0..65535]`, the flat map (R21). -/
  map : Memory
  /-- `FAMILY` (R22). -/
  family : Family
  /-- `ROM`, `ROM_SIZE` (R23). -/
  rom : ByteSeq
  /-- `STAGE`, `STAGE_SIZE` (R24). -/
  stage : ByteSeq
  /-- `SLOT[0]` (R25). -/
  x0 : Byte
  /-- `SLOT[1]` (R25). -/
  x1 : Byte
  /-- `SLOT[2]` (R25). -/
  x2 : Byte
  /-- `CTRL` (R27). -/
  ctrl : Byte
  /-- `CRAM[0..32767]` (R28). -/
  cram : Memory
  /-- `BP`, oldest first (R29, R245). -/
  bp : List Breakpoint
  /-- `RUNTO_VALID` (R29). -/
  runtoValid : Bool
  /-- `RUNTO_ADDR` (R29). -/
  runtoAddr : Addr
  /-- `RUNTO_QUAL` (R29). -/
  runtoQual : Option Byte
  /-- `RUNTO_HIT` (R29). -/
  runtoHit : Bool
  /-- Whether INIT has run since power-on (R36). -/
  initialised : Bool
  /-- How many failed LOADSTATEs have drawn free values. -/
  draws : Nat
  /-- The commands issued and not yet taken, oldest first (R4, R76). -/
  inbox : List Request
  /-- What the last command returned; no rule reads it (R91). -/
  response : Option Response
deriving DecidableEq, Repr

/-- How an instruction ends. -/
abbrev Result := Host.Outcome State Fault Refusal

/-- The machine right after its reset, the first INIT: 'The power-on reset of the block is the command INIT'
(R290), with R35's column 'after INIT', and nothing at the ports. Log entry 1. -/
def State.reset : State where
  map := []
  family := .noRule
  rom := ⟨0, []⟩
  stage := ⟨0, []⟩
  x0 := 0x00
  x1 := 0x01
  x2 := 0x02
  ctrl := 0x00
  cram := []
  bp := []
  runtoValid := false
  runtoAddr := 0x0000
  runtoQual := none
  runtoHit := false
  initialised := true
  draws := 0
  inbox := []
  response := none

end Sys2Proof.Machine
end

