-- ==== Sys2Proof/Machine/Flags.lean ====
section
/-! DEFINITION. The block's flags (spec/10_state.md rule R31): the two mode bits of `CTRL` (R27) and the two
run-to flags (R29). There is no arithmetic flag. -/

namespace Sys2Proof.Machine

/-- `RAMEN = CTRL[3]` (R27): window 2 of the Sega engine maps cartridge RAM. -/
def ramen (ctrl : Byte) : Bool := ctrl.getLsbD 3

/-- `RAMBANK = CTRL[2]` (R27): the cartridge RAM bank, 0 or 1. -/
def rambank (ctrl : Byte) : Nat := if ctrl.getLsbD 2 then 1 else 0

/-- Arm the run-to target and discard an unobserved hit (R249). -/
def State.armRunTo (s : State) (a : Addr) (q : Option Byte) : State :=
  { s with runtoValid := true, runtoAddr := a, runtoQual := q, runtoHit := false }

/-- Disarm the run-to target; its address and qualifier stay (R250). -/
def State.disarmRunTo (s : State) : State := { s with runtoValid := false, runtoHit := false }

/-- GETRUNTO's own effect: a hit that is reported is cleared, and the target with it (R251). -/
def State.observeRunTo (s : State) : State := if s.runtoHit then s.disarmRunTo else s

end Sys2Proof.Machine
end

