-- ==== Sys2Proof/Machine/Operands.lean ====
section
/-! DEFINITION. What an address resolves to: the helper functions of spec/00_scope.md rule R9, the partition
(spec/20_memory.md rule R62), the translation (R68) and the sizes the commands check. -/

namespace Sys2Proof.Machine

/-- `WIN(a) = a[15:14]` (R9). -/
def win (a : Addr) : Nat := a.toNat / Config.bankSize

/-- `OFF(a) = a[13:0]` (R9). -/
def off (a : Addr) : Nat := a.toNat % Config.bankSize

/-- `x[w]` (R8, R25), w in 0..2. -/
def State.x (s : State) (w : Nat) : Byte := if w = 0 then s.x0 else if w = 1 then s.x1 else s.x2

/-- `NB`, the number of 16KB banks of the installed image (R9). -/
def State.nb (s : State) : Nat := s.rom.size / Config.bankSize

/-- `BANK(w) = x[w] mod NB` (R9). -/
def State.bank (s : State) (w : Nat) : Nat := (s.x w).toNat % s.nb

/-- `PHYS(a) = BANK(WIN(a)) * 16384 + OFF(a)` (R9). -/
def State.phys (s : State) (a : Addr) : Nat := s.bank (win a) * Config.bankSize + off a

/-- `LIN(a) = a mod ROM_SIZE` (R9, R146). -/
def State.lin (s : State) (a : Addr) : Nat := a.toNat % s.rom.size

/-- The cartridge RAM offset of an address of window 2, `CTRL[2] * 16384 + OFF(a)` (R67). -/
def State.cramIndex (s : State) (a : Addr) : Nat := rambank s.ctrl * Config.bankSize + off a

/-- `Delegated(fam, a)` (R9, R62). -/
def delegated (fam : Family) (a : Addr) : Bool :=
  decide (a.toNat < Config.directBase) || (decide (fam = .sega) && decide (Config.segaRegBase ≤ a.toNat))

/-- The Sega register at 0xFFFC + i: `CTRL`, `x[0]`, `x[1]`, `x[2]` (R154). -/
def State.segaReg (s : State) (i : Nat) : Byte :=
  if i = 0 then s.ctrl else if i = 1 then s.x0 else if i = 2 then s.x1 else s.x2

/-- The place a logical address resolves to (R68). -/
inductive Place
  | mapCell (a : Nat)
  | romCell (p : Nat)
  | cramCell (c : Nat)
  | regCell (i : Nat)
  | openBus
deriving DecidableEq, Repr

/-- `Resolve(a)` (R68). -/
def State.resolve (s : State) (a : Addr) : Place :=
  if delegated s.family a then
    match s.family with
    | .noRule => .openBus
    | .romOnly => .romCell (s.lin a)
    | .sg1000 => .romCell (s.lin a)
    | .codemasters => .romCell (s.phys a)
    | .korean => .romCell (s.phys a)
    | .sega =>
      if Config.segaRegBase ≤ a.toNat then .regCell (a.toNat - Config.segaRegBase)
      else if win a = 2 ∧ ramen s.ctrl = true then .cramCell (s.cramIndex a)
      else .romCell (s.phys a)
  else .mapCell a.toNat

/-- The byte at a place (R68). -/
def State.placeByte (s : State) : Place → Byte
  | .mapCell a => s.map.read a
  | .romCell p => s.rom.get p
  | .cramCell c => s.cram.read c
  | .regCell i => s.segaReg i
  | .openBus => Config.openBus

/-- `MemRead(a, 1)` (R8): the byte a CPU read of `a` returns. -/
def State.memRead (s : State) (a : Addr) : Byte := s.placeByte (s.resolve a)

/-- `QualMatches(q, a)` (R253): no qualifier, or the qualifying 16KB bank of the image is the one that shows
at `a`. -/
def State.qualMatches (s : State) (q : Option Byte) (a : Addr) : Bool :=
  match q with
  | none => true
  | some b =>
    match s.resolve a with
    | .romCell p => decide (p / Config.bankSize = b.toNat)
    | .mapCell _ => false
    | .cramCell _ => false
    | .regCell _ => false
    | .openBus => false

/-- `GRAN(fam)` (R5, R196). -/
def gran : Family → Nat
  | .noRule => 8192
  | .romOnly => 8192
  | .sg1000 => 8192
  | .sega => 16384
  | .codemasters => 16384
  | .korean => 16384

/-- `SizeAcceptable(size)` (R194). -/
def sizeAcceptable (size : Nat) : Bool :=
  decide (Config.romMin ≤ size) && decide (size ≤ Config.romMax) && decide (size % Config.romMin = 0)

/-- `ImageFits(fam)` (R196). -/
def State.imageFits (s : State) (fam : Family) : Bool :=
  decide (0 < s.stage.size) && decide (s.stage.size % gran fam = 0)

/-- `STATESIZE(fam)` (R226). -/
def stateSize : Family → Nat
  | .noRule => 65537
  | .romOnly => 65537
  | .sg1000 => 65537
  | .korean => 65538
  | .codemasters => 65540
  | .sega => 98309

end Sys2Proof.Machine
end

