-- ==== Sys2Proof/Machine/Ops.lean ====
section
/-! DEFINITION. The named operations on the state that the meanings share: ending a command with a response
(spec/30_encoding.md rule R91), ending it with an error status (spec/60_exceptions.md rules R265, R266: the
block's whole exception mechanism; there is no trap entry, R277, and no return, R278), the run-to hook (R252),
a rule's reset (R200), and the access of one address-decode row (R95). -/

namespace Sys2Proof.Machine

/-! ### Responses -/

/-- The code of a status (R100). -/
def Status.code : Status → BitVec 4
  | .ok => 0x0
  | .invalidImage => 0x1
  | .unsupportedImage => 0x2
  | .stateMismatch => 0x3
  | .noRule => 0x4
  | .illegalCmd => 0x5
  | .bufferTooSmall => 0x6
  | .ignored => 0x7

/-- The 36-bit response word, `{STATUS, RDATA, RVAL}` (R91). -/
def Response.word (r : Response) : RespWord := r.status.code ++ r.rdata ++ r.rval

/-- `resp(s, d, v)` with no output stream (R91). -/
def resp (st : Status) (d : Byte) (v : Num24) : Response := ⟨st, d, v, ByteSeq.empty⟩

/-- The command returns `r`. -/
def State.respond (s : State) (r : Response) : State := { s with response := some r }

/-- The command ends with `resp(OK)`. -/
def State.done (s : State) : State := s.respond (resp .ok 0x00 0)

/-- `raise st(RVAL = v)` (R8, R265): the command ends at once with a status other than OK; control goes nowhere
and nothing is saved. -/
def State.raise (s : State) (st : Status) (v : Num24) : State := s.respond (resp st 0x00 v)

/-- A number as the 24-bit result field, for the sizes and offsets that rules return: each is below 2^24 in every
state, the largest 255 * 16384 (R212), so nothing is cut off. A count is not: see `countRval`. -/
def rval (n : Nat) : Num24 := BitVec.ofNat 24 n

/-- A count as the 24-bit result field (R91, R247). For a count of 2^24 or more the spec states no `RVAL`, and the
model returns a free value: DESIGN CHOICE, log entry 15. -/
def countRval (n : Nat) : Num24 := if n < 16777216 then rval n else Config.wideCount n

/-! ### Registers and memories -/

/-- `MAP[a] <- v`. -/
def State.storeMap (s : State) (a : Addr) (v : Byte) : State := { s with map := s.map.write a.toNat v }

/-- `CRAM[c] <- v`. -/
def State.storeCram (s : State) (c : Nat) (v : Byte) : State := { s with cram := s.cram.write c v }

/-- `x[0] <- v`. -/
def State.setX0 (s : State) (v : Byte) : State := { s with x0 := v }

/-- `x[1] <- v`. -/
def State.setX1 (s : State) (v : Byte) : State := { s with x1 := v }

/-- `x[2] <- v`. -/
def State.setX2 (s : State) (v : Byte) : State := { s with x2 := v }

/-- `CTRL <- v`. -/
def State.setCtrl (s : State) (v : Byte) : State := { s with ctrl := v }

/-- The power-on value of `x[2]` in a family (R35, R200). -/
def powerOnX2 : Family → Byte
  | .noRule => 0x02
  | .romOnly => 0x02
  | .sega => 0x02
  | .codemasters => 0x00
  | .korean => 0x02
  | .sg1000 => 0x02

/-- `RuleReset(fam)` (R200): the four registers and nothing else. -/
def State.ruleReset (s : State) (fam : Family) : State :=
  { s with x0 := 0x00, x1 := 0x01, x2 := powerOnX2 fam, ctrl := 0x00 }

/-! ### The access path -/

/-- Whether an access to `a` hits the run-to target (R252). -/
def State.runToMatches (s : State) (a : Addr) : Bool :=
  s.runtoValid && decide (a = s.runtoAddr) && s.qualMatches s.runtoQual a

/-- `RunToCheck(a)` (R252), the first action of READ and WRITE (R126). -/
def State.runToCheck (s : State) (a : Addr) : State :=
  { s with runtoHit := s.runtoHit || s.runToMatches a }

/-- Whether the address decoder selects `row` for this access now (R95). -/
def State.selects (s : State) (row : Row) (dir : Dir) (a : Addr) : Bool :=
  decide (selectRow s.family dir (ramen s.ctrl) a = some row)

/-- The access of a read row: it returns `b` and changes nothing. -/
def State.readBy (s : State) (row : Row) (a : Addr) (b : Byte) : Result :=
  if s.selects row .read a then .next (s.respond (resp .ok b 0)) else .refused (.rowNotSelected row)

/-- The access of a write row: `t` is the state with the row's store made. -/
def State.writeBy (s : State) (row : Row) (a : Addr) (t : State) : Result :=
  if s.selects row .write a then .next t.done else .refused (.rowNotSelected row)

end Sys2Proof.Machine
end

