-- ==== Sys2Proof/Machine/Codemasters.lean ====
section
/-! DEFINITION. The address-decode rows of the Codemasters engine (spec/43_mapper_codemasters.md). -/

namespace Sys2Proof.Machine

/-- Read, 0xC000–0xFFFF: `MAP[a]` (R120). -/
def execCodemastersRDirect (a : Addr) (s : State) : Result :=
  s.readBy .codemastersRDirect a (s.map.read a.toNat)

/-- Read, rest: `ROM[PHYS(a)]` (R171). -/
def execCodemastersRRest (a : Addr) (s : State) : Result := s.readBy .codemastersRRest a (s.rom.get (s.phys a))

/-- Write 0x0000: `x[0] <- v` (R172). -/
def execCodemastersWX0 (v : Byte) (s : State) : Result := s.writeBy .codemastersWX0 0x0000 (s.setX0 v)

/-- Write 0x4000: `x[1] <- v` (R173). -/
def execCodemastersWX1 (v : Byte) (s : State) : Result := s.writeBy .codemastersWX1 0x4000 (s.setX1 v)

/-- Write 0x8000: `x[2] <- v` (R174). -/
def execCodemastersWX2 (v : Byte) (s : State) : Result := s.writeBy .codemastersWX2 0x8000 (s.setX2 v)

/-- Write, 0xC000–0xFFFF: `MAP[a] <- v` (R121). -/
def execCodemastersWDirect (a : Addr) (v : Byte) (s : State) : Result :=
  s.writeBy .codemastersWDirect a (s.storeMap a v)

/-- Write to any other ROM-backed byte: nothing (R175). -/
def execCodemastersWRest (a : Addr) (_v : Byte) (s : State) : Result := s.writeBy .codemastersWRest a s

end Sys2Proof.Machine
end

