-- ==== Sys2Proof/Machine/Korean.lean ====
section
/-! DEFINITION. The address-decode rows of the Korean engine (spec/44_mapper_korean.md). -/

namespace Sys2Proof.Machine

/-- Read, 0xC000–0xFFFF: `MAP[a]` (R120). -/
def execKoreanRDirect (a : Addr) (s : State) : Result := s.readBy .koreanRDirect a (s.map.read a.toNat)

/-- Read, rest: `ROM[PHYS(a)]` (R181). -/
def execKoreanRRest (a : Addr) (s : State) : Result := s.readBy .koreanRRest a (s.rom.get (s.phys a))

/-- Write 0xA000: `x[2] <- v` (R182). -/
def execKoreanWX2 (v : Byte) (s : State) : Result := s.writeBy .koreanWX2 0xA000 (s.setX2 v)

/-- Write, 0xC000–0xFFFF: `MAP[a] <- v` (R121). -/
def execKoreanWDirect (a : Addr) (v : Byte) (s : State) : Result := s.writeBy .koreanWDirect a (s.storeMap a v)

/-- Write to any other ROM-backed byte: nothing (R183). -/
def execKoreanWRest (a : Addr) (_v : Byte) (s : State) : Result := s.writeBy .koreanWRest a s

end Sys2Proof.Machine
end

