-- ==== Sys2Proof/Machine/Sega.lean ====
section
/-! DEFINITION. The address-decode rows of the Sega engine (spec/42_mapper_sega.md). -/

namespace Sys2Proof.Machine

/-- Read, 0xFFFC–0xFFFF: the raw register (R154). -/
def execSegaRRegs (a : Addr) (s : State) : Result :=
  s.readBy .segaRRegs a (s.segaReg (a.toNat - Config.segaRegBase))

/-- Read, 0xC000–0xFFFB: `MAP[a]` (R120). -/
def execSegaRDirect (a : Addr) (s : State) : Result := s.readBy .segaRDirect a (s.map.read a.toNat)

/-- Read, window 2 while `CTRL[3] = 1`: `CRAM[CTRL[2] * 16384 + OFF(a)]` (R153). -/
def execSegaRWin2Cram (a : Addr) (s : State) : Result := s.readBy .segaRWin2Cram a (s.cram.read (s.cramIndex a))

/-- Read, window 2 while `CTRL[3] = 0`: `ROM[PHYS(a)]` (R152). -/
def execSegaRWin2Rom (a : Addr) (s : State) : Result := s.readBy .segaRWin2Rom a (s.rom.get (s.phys a))

/-- Read, windows 0 and 1: `ROM[PHYS(a)]` (R151, R164). -/
def execSegaRWin01 (a : Addr) (s : State) : Result := s.readBy .segaRWin01 a (s.rom.get (s.phys a))

/-- Write 0xFFFC: `CTRL <- v` (R155). -/
def execSegaWCtrl (v : Byte) (s : State) : Result := s.writeBy .segaWCtrl 0xFFFC (s.setCtrl v)

/-- Write 0xFFFD: `x[0] <- v` (R156). -/
def execSegaWX0 (v : Byte) (s : State) : Result := s.writeBy .segaWX0 0xFFFD (s.setX0 v)

/-- Write 0xFFFE: `x[1] <- v` (R157). -/
def execSegaWX1 (v : Byte) (s : State) : Result := s.writeBy .segaWX1 0xFFFE (s.setX1 v)

/-- Write 0xFFFF: `x[2] <- v` (R158). -/
def execSegaWX2 (v : Byte) (s : State) : Result := s.writeBy .segaWX2 0xFFFF (s.setX2 v)

/-- Write, 0xC000–0xFFFB: `MAP[a] <- v` (R121). -/
def execSegaWDirect (a : Addr) (v : Byte) (s : State) : Result := s.writeBy .segaWDirect a (s.storeMap a v)

/-- Write, window 2 while `CTRL[3] = 1`: `CRAM[CTRL[2] * 16384 + OFF(a)] <- v` (R159). -/
def execSegaWWin2Cram (a : Addr) (v : Byte) (s : State) : Result :=
  s.writeBy .segaWWin2Cram a (s.storeCram (s.cramIndex a) v)

/-- Write to a ROM-backed byte: nothing (R160). -/
def execSegaWRest (a : Addr) (_v : Byte) (s : State) : Result := s.writeBy .segaWRest a s

end Sys2Proof.Machine
end

