-- ==== Sys2Proof/Machine/Unbanked.lean ====
section
/-! DEFINITION. The address-decode rows with no rule installed (spec/40_cpu_access.md rule R125) and of the
unbanked engines RomOnly and SG1000 (spec/41_mapper_unbanked.md), with the direct rows of R120 and R121. -/

namespace Sys2Proof.Machine

/-- None, read, 0xC000–0xFFFF: `MAP[a]` (R120). -/
def execNoneRDirect (a : Addr) (s : State) : Result := s.readBy .noneRDirect a (s.map.read a.toNat)

/-- None, read, rest: `OPEN_BUS` (R125). -/
def execNoneRRest (a : Addr) (s : State) : Result := s.readBy .noneRRest a Config.openBus

/-- None, write, 0xC000–0xFFFF: `MAP[a] <- v` (R121). -/
def execNoneWDirect (a : Addr) (v : Byte) (s : State) : Result := s.writeBy .noneWDirect a (s.storeMap a v)

/-- None, write, rest: ignored (R125). -/
def execNoneWRest (a : Addr) (_v : Byte) (s : State) : Result := s.writeBy .noneWRest a s

/-- RomOnly, read, 0xC000–0xFFFF: `MAP[a]` (R120). -/
def execRomOnlyRDirect (a : Addr) (s : State) : Result := s.readBy .romOnlyRDirect a (s.map.read a.toNat)

/-- RomOnly, read, rest: `ROM[LIN(a)]` (R140). -/
def execRomOnlyRRest (a : Addr) (s : State) : Result := s.readBy .romOnlyRRest a (s.rom.get (s.lin a))

/-- RomOnly, write, 0xC000–0xFFFF: `MAP[a] <- v` (R121). -/
def execRomOnlyWDirect (a : Addr) (v : Byte) (s : State) : Result :=
  s.writeBy .romOnlyWDirect a (s.storeMap a v)

/-- RomOnly, write, rest: nothing (R141). -/
def execRomOnlyWRest (a : Addr) (_v : Byte) (s : State) : Result := s.writeBy .romOnlyWRest a s

/-- SG1000, read, 0xC000–0xFFFF: `MAP[a]` (R120). -/
def execSg1000RDirect (a : Addr) (s : State) : Result := s.readBy .sg1000RDirect a (s.map.read a.toNat)

/-- SG1000, read, rest: `ROM[LIN(a)]` (R143). -/
def execSg1000RRest (a : Addr) (s : State) : Result := s.readBy .sg1000RRest a (s.rom.get (s.lin a))

/-- SG1000, write, 0xC000–0xFFFF: `MAP[a] <- v` (R121). -/
def execSg1000WDirect (a : Addr) (v : Byte) (s : State) : Result :=
  s.writeBy .sg1000WDirect a (s.storeMap a v)

/-- SG1000, write, rest: nothing (R144). -/
def execSg1000WRest (a : Addr) (_v : Byte) (s : State) : Result := s.writeBy .sg1000WRest a s

end Sys2Proof.Machine
end

