-- ==== Sys2Proof/Machine/Cpu.lean ====
section
/-! DEFINITION. READ and WRITE (spec/40_cpu_access.md): the run-to hook, and then the action of the
address-decode row that the address decoder selects (spec/30_encoding.md rule R95). -/

namespace Sys2Proof.Machine

/-- The action of a row of R96: the meaning of its own instruction. -/
def runRow (row : Row) (a : Addr) (v : Byte) (s : State) : Result :=
  match row with
  | .noneRDirect => execNoneRDirect a s
  | .noneRRest => execNoneRRest a s
  | .noneWDirect => execNoneWDirect a v s
  | .noneWRest => execNoneWRest a v s
  | .romOnlyRDirect => execRomOnlyRDirect a s
  | .romOnlyRRest => execRomOnlyRRest a s
  | .romOnlyWDirect => execRomOnlyWDirect a v s
  | .romOnlyWRest => execRomOnlyWRest a v s
  | .sg1000RDirect => execSg1000RDirect a s
  | .sg1000RRest => execSg1000RRest a s
  | .sg1000WDirect => execSg1000WDirect a v s
  | .sg1000WRest => execSg1000WRest a v s
  | .segaRRegs => execSegaRRegs a s
  | .segaRDirect => execSegaRDirect a s
  | .segaRWin2Cram => execSegaRWin2Cram a s
  | .segaRWin2Rom => execSegaRWin2Rom a s
  | .segaRWin01 => execSegaRWin01 a s
  | .segaWCtrl => execSegaWCtrl v s
  | .segaWX0 => execSegaWX0 v s
  | .segaWX1 => execSegaWX1 v s
  | .segaWX2 => execSegaWX2 v s
  | .segaWDirect => execSegaWDirect a v s
  | .segaWWin2Cram => execSegaWWin2Cram a v s
  | .segaWRest => execSegaWRest a v s
  | .codemastersRDirect => execCodemastersRDirect a s
  | .codemastersRRest => execCodemastersRRest a s
  | .codemastersWX0 => execCodemastersWX0 v s
  | .codemastersWX1 => execCodemastersWX1 v s
  | .codemastersWX2 => execCodemastersWX2 v s
  | .codemastersWDirect => execCodemastersWDirect a v s
  | .codemastersWRest => execCodemastersWRest a v s
  | .koreanRDirect => execKoreanRDirect a s
  | .koreanRRest => execKoreanRRest a s
  | .koreanWX2 => execKoreanWX2 v s
  | .koreanWDirect => execKoreanWDirect a v s
  | .koreanWRest => execKoreanWRest a v s

/-- An access at the address decoder (R95): the selected row's action. The decoder is total, so the refusal is
never given. -/
def access (dir : Dir) (a : Addr) (v : Byte) (s : State) : Result :=
  match selectRow s.family dir (ramen s.ctrl) a with
  | some row => runRow row a v s
  | none => .refused (.rowNotSelected .noneRRest)

/-- READ (R120); `pc` has no effect (R122). -/
def execRead (a : Addr) (_pc : BitVec 16) (s : State) : Result := access .read a 0x00 (s.runToCheck a)

/-- WRITE (R121); `pc` has no effect (R122). -/
def execWrite (a : Addr) (_pc : BitVec 16) (v : Byte) (s : State) : Result := access .write a v (s.runToCheck a)

end Sys2Proof.Machine
end

