-- ==== Sys2Proof/Machine/Debug.lean ====
section
/-! DEFINITION. Breakpoint and run-to bookkeeping (spec/48_debug.md). The hook `RunToCheck` is in Ops.lean. -/

namespace Sys2Proof.Machine

/-- Whether a debug address is above 0xFFFF; it is then ignored (R256). -/
def outOfRange (a : Num24) : Bool := decide (0xFFFF < a.toNat)

/-- The entry of a debug command's operands (R245). -/
def entryOf (a : Num24) (q : Option Byte) : Breakpoint := ⟨a.extractLsb' 0 16, q⟩

/-- The command had nothing to act on (R273). -/
def State.ignore (s : State) : State := s.respond (resp .ignored 0x00 0)

/-- A qualifier as a result byte: 0x00 when absent (R248, R251). -/
def qualByte : Option Byte → Byte
  | none => 0x00
  | some b => b

/-- BPADD (R245): range, then duplicate, then capacity. -/
def execBpadd (a : Num24) (q : Option Byte) (s : State) : Result :=
  .next (if outOfRange a then s.ignore
    else if entryOf a q ∈ s.bp then s.done
    else if s.bp.length = Config.bpMax then s.ignore
    else ({ s with bp := s.bp ++ [entryOf a q] } : State).done)

/-- BPREMOVE (R246). -/
def execBpremove (a : Num24) (q : Option Byte) (s : State) : Result :=
  .next (if outOfRange a then s.ignore
    else if entryOf a q ∈ s.bp then ({ s with bp := s.bp.erase (entryOf a q) } : State).done
    else s.ignore)

/-- BPCOUNT (R247). The `RVAL` of a count that does not fit 24 bits is a free value: DESIGN CHOICE, log entry 15. -/
def execBpcount (s : State) : Result := .next (s.respond (resp .ok 0x00 (countRval s.bp.length)))

/-- BPLIST (R248): `RVAL[15:0]` address, `RVAL[16]` qualified, `RDATA` bank. -/
def execBplist (i : Num24) (s : State) : Result :=
  .next (match s.bp[i.toNat]? with
    | none => s.ignore
    | some e => s.respond (resp .ok (qualByte e.qual) (0#7 ++ BitVec.ofBool e.qual.isSome ++ e.addr)))

/-- RUNTOSET (R249). -/
def execRuntoset (a : Num24) (q : Option Byte) (s : State) : Result :=
  .next (if outOfRange a then s.ignore else (s.armRunTo (a.extractLsb' 0 16) q).done)

/-- RUNTOCLEAR (R250). -/
def execRuntoclear (s : State) : Result := .next s.disarmRunTo.done

/-- GETRUNTO (R251): `RVAL[15:0]` address, `RVAL[16]` qualified, `RVAL[17]` valid, `RVAL[18]` hit; the report
of a hit clears it. -/
def execGetrunto (s : State) : Result :=
  .next (s.observeRunTo.respond (resp .ok (qualByte s.runtoQual)
    (0#5 ++ BitVec.ofBool s.runtoHit ++ BitVec.ofBool s.runtoValid ++
      BitVec.ofBool s.runtoQual.isSome ++ s.runtoAddr)))

end Sys2Proof.Machine
end

