-- ==== Sys2Proof/Machine/Direct.lean ====
section
/-! DEFINITION. Direct access, introspection and cheat commands (spec/46_direct_and_introspection.md). -/

namespace Sys2Proof.Machine

/-- RETRIEVE (R210). -/
def execRetrieve (a : Addr) (s : State) : Result := .next (s.respond (resp .ok (s.map.read a.toNat) 0))

/-- LOAD (R211). -/
def execLoad (a : Addr) (v : Byte) (s : State) : Result := .next (s.storeMap a v).done

/-- ROMBANK (R212): window 3 is answered before the missing rule is (R276). -/
def execRombank (w : BitVec 2) (s : State) : Result :=
  .next (if w = 3 then s.respond (resp .ignored 0x00 0)
    else match s.family with
      | .noRule => s.raise .noRule 0
      | .romOnly => s.respond (resp .ok 0x00 (rval (w.toNat * Config.bankSize % s.rom.size)))
      | .sg1000 => s.respond (resp .ok 0x00 (rval (w.toNat * Config.bankSize % s.rom.size)))
      | .sega => s.respond (resp .ok 0x00 (rval (s.bank w.toNat * Config.bankSize)))
      | .codemasters => s.respond (resp .ok 0x00 (rval (s.bank w.toNat * Config.bankSize)))
      | .korean => s.respond (resp .ok 0x00 (rval (s.bank w.toNat * Config.bankSize))))

/-- RAMBANK (R213). -/
def execRambank (s : State) : Result :=
  .next (s.respond (if s.family = .sega then
      resp .ok (if ramen s.ctrl then 0x01 else 0x00) (rval (rambank s.ctrl * Config.bankSize))
    else resp .ok 0x00 0))

/-- PEEKROM (R214). -/
def execPeekrom (p : Num24) (s : State) : Result :=
  .next (s.respond (if p.toNat < s.rom.size then resp .ok (s.rom.get p.toNat) 0
    else resp .ignored Config.openBus 0))

/-- PEEKCRAM (R215). -/
def execPeekcram (c : Num24) (s : State) : Result :=
  .next (s.respond (if s.family = .sega ∧ c.toNat < Config.cramSize then resp .ok (s.cram.read c.toNat) 0
    else resp .ignored Config.openBus 0))

/-- POKECRAM (R216). -/
def execPokecram (c : Num24) (v : Byte) (s : State) : Result :=
  .next (if s.family = .sega ∧ c.toNat < Config.cramSize then (s.storeCram c.toNat v).done
    else s.respond (resp .ignored 0x00 0))

end Sys2Proof.Machine
end

