-- ==== Sys2Proof/Machine/Lifecycle.lean ====
section
/-! DEFINITION. The lifecycle commands INIT, RESET, LOADROM, SETRULE, GETRULE (spec/45_lifecycle.md). -/

namespace Sys2Proof.Machine

/-- INIT (R190): every element of the state to its value after INIT (R35). -/
def execInit (s : State) : Result :=
  .next ({ s with
    map := [], family := .noRule, rom := ByteSeq.empty, stage := ByteSeq.empty,
    x0 := 0x00, x1 := 0x01, x2 := 0x02, ctrl := 0x00, cram := [],
    bp := [], runtoValid := false, runtoAddr := 0x0000, runtoQual := none, runtoHit := false,
    initialised := true } : State).done

/-- RESET (R191, R192). -/
def execReset (s : State) : Result :=
  .next (if s.family = .noRule then s.raise .noRule 0
    else ({ s with map := [] } : State).ruleReset s.family |>.done)

/-- LOADROM (R193): the image goes to the staging area and nowhere else. -/
def execLoadrom (size : Num24) (data : ByteSeq) (s : State) : Result :=
  if payloadOk size data then
    .next (if sizeAcceptable size.toNat then ({ s with stage := data } : State).done
      else s.raise .invalidImage 0)
  else .refused .streamLength

/-- Install the staged image and the rule (R195). -/
def State.install (s : State) (fam : Family) : State :=
  ({ s with family := fam, rom := s.stage, cram := [] } : State).ruleReset fam

/-- SETRULE of a family 1..5 (R195). -/
def setRule (fam : Family) (s : State) : State :=
  if s.imageFits fam then (s.install fam).done else s.raise .unsupportedImage 0

/-- SETRULE (R195); a tag of 0 or above 5 makes the word illegal (R102 (c), R271). -/
def execSetrule (tag : Byte) (s : State) : Result :=
  .next (match Family.ofTag tag with
    | none => s.raise .illegalCmd 0
    | some .noRule => s.raise .illegalCmd 0
    | some .romOnly => setRule .romOnly s
    | some .sega => setRule .sega s
    | some .codemasters => setRule .codemasters s
    | some .korean => setRule .korean s
    | some .sg1000 => setRule .sg1000 s)

/-- GETRULE (R197). -/
def execGetrule (s : State) : Result := .next (s.respond (resp .ok s.family.tag 0))

end Sys2Proof.Machine
end

