-- ==== Sys2Proof/Machine/SaveState.lean ====
section
/-! DEFINITION. State serialization: STATESIZE, SAVESTATE, LOADSTATE (spec/47_save_state.md). -/

namespace Sys2Proof.Machine

/-- The register bytes of the family's record, in order (R225). -/
def State.recordRegs (s : State) : List Byte :=
  match s.family with
  | .noRule => []
  | .romOnly => []
  | .sg1000 => []
  | .korean => [s.x2]
  | .codemasters => [s.x0, s.x1, s.x2]
  | .sega => [s.x0, s.x1, s.x2, s.ctrl]

/-- The cartridge RAM bytes of the record: all 32768 in the Sega family, none otherwise (R225). -/
def State.recordCram (s : State) : Memory := if s.family = .sega then s.cram.slice 0 Config.cramSize else []

/-- The save-state record of the state (R225, R228): flat map, family tag, register bytes, cartridge RAM. -/
def State.record (s : State) : ByteSeq where
  size := stateSize s.family
  cells := s.map.slice 0 Config.mapSize ++
    (Memory.ofBytes Config.mapSize (s.family.tag :: s.recordRegs) ++ s.recordCram.shift 65541)

/-- STATESIZE (R227). -/
def execStatesize (s : State) : Result := .next (s.respond (resp .ok 0x00 (rval (stateSize s.family))))

/-- SAVESTATE (R228, R229). -/
def execSavestate (n : Num24) (s : State) : Result :=
  .next (if n.toNat < stateSize s.family then s.raise .bufferTooSmall (rval (stateSize s.family))
    else s.respond ⟨.ok, 0x00, rval (stateSize s.family), s.record⟩)

/-- `StateAcceptable(n, s)` (R231): the exact length, a recognised tag, the active family's tag. -/
def State.acceptable (s : State) (data : ByteSeq) : Bool :=
  decide (data.size = stateSize s.family) &&
    (decide ((data.get 65536).toNat ≤ 0x05) && decide (data.get 65536 = s.family.tag))

/-- The successful restore (R230): the flat map by LOAD semantics, then the family's registers, then the
cartridge RAM; no bank-switch side effect (R234). -/
def State.restore (s : State) (r : ByteSeq) : State :=
  let t := { s with map := r.cells.slice 0 Config.mapSize }
  match s.family with
  | .noRule => t
  | .romOnly => t
  | .sg1000 => t
  | .korean => { t with x2 := r.get 65537 }
  | .codemasters => { t with x0 := r.get 65537, x1 := r.get 65538, x2 := r.get 65539 }
  | .sega => { t with x0 := r.get 65537, x1 := r.get 65538, x2 := r.get 65539, ctrl := r.get 65540,
                      cram := r.cells.slice 65541 Config.cramSize }

/-- The state a failed restore leaves (R232): every element of the record holds a free value, everything else
is unchanged. Log entry 8. -/
def State.corrupt (s : State) (r : ByteSeq) : State :=
  let free := fun (index : Nat) (old : Byte) => Config.mismatchByte s.draws index old (r.get index)
  let t := { s with
    map := Memory.tabulate Config.mapSize fun a => free a (s.map.read a)
    draws := s.draws + 1 }
  match s.family with
  | .noRule => t
  | .romOnly => t
  | .sg1000 => t
  | .korean => { t with x2 := free 65537 s.x2 }
  | .codemasters => { t with x0 := free 65537 s.x0, x1 := free 65538 s.x1, x2 := free 65539 s.x2 }
  | .sega => { t with x0 := free 65537 s.x0, x1 := free 65538 s.x1, x2 := free 65539 s.x2,
                      ctrl := free 65540 s.ctrl,
                      cram := Memory.tabulate Config.cramSize fun c => free (65541 + c) (s.cram.read c) }

/-- LOADSTATE (R230 to R233). -/
def execLoadstate (n : Num24) (data : ByteSeq) (s : State) : Result :=
  if payloadOk n data then
    .next (if s.acceptable data then (s.restore data).done else (s.corrupt data).raise .stateMismatch 0)
  else .refused .streamLength

end Sys2Proof.Machine
end

