-- ==== Sys2Proof/Machine/Dispatch.lean ====
section
/-! DEFINITION. The meaning of each instruction, one arm per constructor. -/

namespace Sys2Proof.Machine

def exec (i : Instr) (s : State) : Host.Outcome State Fault Refusal :=
  match i with
  | .read a p => Sys2Proof.Machine.execRead a p s
  | .write a p v => Sys2Proof.Machine.execWrite a p v s
  | .init => Sys2Proof.Machine.execInit s
  | .reset => Sys2Proof.Machine.execReset s
  | .loadrom n data => Sys2Proof.Machine.execLoadrom n data s
  | .setrule t => Sys2Proof.Machine.execSetrule t s
  | .getrule => Sys2Proof.Machine.execGetrule s
  | .retrieve a => Sys2Proof.Machine.execRetrieve a s
  | .load a v => Sys2Proof.Machine.execLoad a v s
  | .statesize => Sys2Proof.Machine.execStatesize s
  | .savestate n => Sys2Proof.Machine.execSavestate n s
  | .loadstate n data => Sys2Proof.Machine.execLoadstate n data s
  | .bpadd a q => Sys2Proof.Machine.execBpadd a q s
  | .bpremove a q => Sys2Proof.Machine.execBpremove a q s
  | .bpcount => Sys2Proof.Machine.execBpcount s
  | .bplist k => Sys2Proof.Machine.execBplist k s
  | .runtoset a q => Sys2Proof.Machine.execRuntoset a q s
  | .runtoclear => Sys2Proof.Machine.execRuntoclear s
  | .getrunto => Sys2Proof.Machine.execGetrunto s
  | .rombank w => Sys2Proof.Machine.execRombank w s
  | .rambank => Sys2Proof.Machine.execRambank s
  | .peekrom p => Sys2Proof.Machine.execPeekrom p s
  | .peekcram c => Sys2Proof.Machine.execPeekcram c s
  | .pokecram c v => Sys2Proof.Machine.execPokecram c v s
  | .noneRDirect a => Sys2Proof.Machine.execNoneRDirect a s
  | .noneRRest a => Sys2Proof.Machine.execNoneRRest a s
  | .noneWDirect a v => Sys2Proof.Machine.execNoneWDirect a v s
  | .noneWRest a v => Sys2Proof.Machine.execNoneWRest a v s
  | .romOnlyRDirect a => Sys2Proof.Machine.execRomOnlyRDirect a s
  | .romOnlyRRest a => Sys2Proof.Machine.execRomOnlyRRest a s
  | .romOnlyWDirect a v => Sys2Proof.Machine.execRomOnlyWDirect a v s
  | .romOnlyWRest a v => Sys2Proof.Machine.execRomOnlyWRest a v s
  | .sg1000RDirect a => Sys2Proof.Machine.execSg1000RDirect a s
  | .sg1000RRest a => Sys2Proof.Machine.execSg1000RRest a s
  | .sg1000WDirect a v => Sys2Proof.Machine.execSg1000WDirect a v s
  | .sg1000WRest a v => Sys2Proof.Machine.execSg1000WRest a v s
  | .segaRRegs a => Sys2Proof.Machine.execSegaRRegs a s
  | .segaRDirect a => Sys2Proof.Machine.execSegaRDirect a s
  | .segaRWin2Cram a => Sys2Proof.Machine.execSegaRWin2Cram a s
  | .segaRWin2Rom a => Sys2Proof.Machine.execSegaRWin2Rom a s
  | .segaRWin01 a => Sys2Proof.Machine.execSegaRWin01 a s
  | .segaWCtrl v => Sys2Proof.Machine.execSegaWCtrl v s
  | .segaWX0 v => Sys2Proof.Machine.execSegaWX0 v s
  | .segaWX1 v => Sys2Proof.Machine.execSegaWX1 v s
  | .segaWX2 v => Sys2Proof.Machine.execSegaWX2 v s
  | .segaWDirect a v => Sys2Proof.Machine.execSegaWDirect a v s
  | .segaWWin2Cram a v => Sys2Proof.Machine.execSegaWWin2Cram a v s
  | .segaWRest a v => Sys2Proof.Machine.execSegaWRest a v s
  | .codemastersRDirect a => Sys2Proof.Machine.execCodemastersRDirect a s
  | .codemastersRRest a => Sys2Proof.Machine.execCodemastersRRest a s
  | .codemastersWX0 v => Sys2Proof.Machine.execCodemastersWX0 v s
  | .codemastersWX1 v => Sys2Proof.Machine.execCodemastersWX1 v s
  | .codemastersWX2 v => Sys2Proof.Machine.execCodemastersWX2 v s
  | .codemastersWDirect a v => Sys2Proof.Machine.execCodemastersWDirect a v s
  | .codemastersWRest a v => Sys2Proof.Machine.execCodemastersWRest a v s
  | .koreanRDirect a => Sys2Proof.Machine.execKoreanRDirect a s
  | .koreanRRest a => Sys2Proof.Machine.execKoreanRRest a s
  | .koreanWX2 v => Sys2Proof.Machine.execKoreanWX2 v s
  | .koreanWDirect a v => Sys2Proof.Machine.execKoreanWDirect a v s
  | .koreanWRest a v => Sys2Proof.Machine.execKoreanWRest a v s

end Sys2Proof.Machine
end

