-- ==== Sys2Proof/Machine/Port.lean ====
section
/-! DEFINITION. How a command reaches the block: the protocol of the two ports (spec/70_reset_and_hazards.md
rule R304), taking the next command, and the answer to an illegal word (spec/60_exceptions.md rule R271). -/

namespace Sys2Proof.Machine

/-- Why a command in violation of the protocol is refused; none when it keeps the protocol (R304). It comes
before anything else the command does (R276). -/
def protocolRefusal (r : Request) (s : State) : Option Refusal :=
  if r.timing = .overlapping then some .overlap
  else if r.port ≠ commandPort (cmdField r.word) then some .wrongPort
  else if r.port = .host ∧ r.timing = .midInstruction then some .midInstruction
  else if s.initialised = false ∧ cmdField r.word ≠ 0x10 then some .beforeInit
  else if r.payload.size ≠ payloadLength r.word ∨ r.payload.wf = false then some .streamLength
  else none

/-- The instruction a command spells. -/
def fetchDecode (r : Request) : Except Reject Instr := decodeWord r.word r.payload

/-- The answer to an illegal command word (R102, R271): no state changes; the payload is consumed with it. -/
def State.illegalWord (s : State) : State := s.raise .illegalCmd 0

/-- A command as an agent that keeps the protocol issues it: on the port that accepts it, at a quiescent
point, with a payload of the announced length, all bytes 0x00. -/
def wordRequest (w : CmdWord) : Request :=
  ⟨commandPort (cmdField w), .quiescent, w, ByteSeq.zeros (payloadLength w)⟩

/-- The command that presents the bits `w` of a table row of `nbits` bits to the block: a command word as it
stands; for an address-decode row a CPU READ of the address, since the rows are decoded inside READ and WRITE
(R95). Log entry 11. -/
def tableRequest (nbits w : Nat) : Request :=
  if nbits ≤ 16 then wordRequest (mkWord 0x00 (a16 (BitVec.ofNat 16 w)) 0 0)
  else wordRequest (BitVec.ofNat 56 w)

end Sys2Proof.Machine
end

