-- ==== Sys2Proof/Machine/Step.lean ====
section
/-! DEFINITION. One step: the block takes the oldest command at its ports and runs it to completion
(spec/00_scope.md rule R4, spec/20_memory.md rule R76). -/

namespace Sys2Proof.Machine

/-- With no command waiting the block does nothing (R4: it 'has no step of its own'; log entry 5). A command
that breaks the protocol is refused (R304), an illegal word is answered (R271), and any other command runs. -/
def step (s : State) : Host.Outcome State Fault Refusal :=
  match s.inbox with
  | [] => .next s
  | r :: rest =>
    match protocolRefusal r s with
    | some e => .refused e
    | none =>
      match fetchDecode r with
      | .error _ => .next ({ s with inbox := rest } : State).illegalWord
      | .ok i => exec i { s with inbox := rest }

/-- The bits `w` of a table row at the head of the commands waiting, so that the next step takes them
(log entries 2 and 11). -/
def State.withFetchWord (s : State) (nbits w : Nat) : State :=
  { s with inbox := tableRequest nbits w :: s.inbox }

end Sys2Proof.Machine
end

