-- ==== Sys2Proof/Safety.lean ====
section
/-! DEFINITION. What holds in every state a run reaches (spec/10_state.md rule R33) and what a run that keeps
the protocol is (spec/70_reset_and_hazards.md rule R304), in the terms the statements use. -/

namespace Sys2Proof.Machine

/-- The state invariant of R33, clauses (b) to (i) ((a) is the type of `family`), with the canonical forms of
the model's memories. The fields name R33's clauses. -/
structure State.Inv (s : State) : Prop where
  mapWf : s.map.wf Config.mapSize = true
  cramWf : s.cram.wf Config.cramSize = true
  romWf : s.rom.wf = true
  stageWf : s.stage.wf = true
  /-- (b) -/
  romFits : s.family ≠ .noRule → 0 < s.rom.size ∧ s.rom.size % gran s.family = 0
  /-- (c) -/
  stageSize : s.stage.size = 0 ∨ (8192 ≤ s.stage.size ∧ s.stage.size ≤ 4194304 ∧ s.stage.size % 8192 = 0)
  /-- (d) -/
  koreanHardwired : s.family = .korean → s.x0 = 0x00 ∧ s.x1 = 0x01
  /-- (e) -/
  unusedPowerOn : s.family = .noRule ∨ s.family = .romOnly ∨ s.family = .sg1000 →
    s.x0 = 0x00 ∧ s.x1 = 0x01 ∧ s.x2 = 0x02 ∧ s.ctrl = 0x00
  /-- (f) -/
  noCtrl : s.family = .codemasters ∨ s.family = .korean → s.ctrl = 0x00
  /-- (g) -/
  cramZero : s.family ≠ .sega → ∀ c, s.cram.read c = 0x00
  /-- (h) -/
  hitArmed : s.runtoHit = true → s.runtoValid = true
  /-- (i) -/
  bpBound : s.bp.length ≤ Config.bpMax ∧ s.bp.Nodup

/-- A command issued as the protocol asks: alone, on its port, at a quiescent point if it is a host command,
with exactly the payload its word announces (R304). -/
structure Request.Proper (r : Request) : Prop where
  alone : r.timing ≠ .overlapping
  onPort : r.port = commandPort (cmdField r.word)
  quiet : r.port = .host → r.timing = .quiescent
  payload : r.payload.size = payloadLength r.word ∧ r.payload.wf = true

/-- The 24 command codes of R92. -/
def commandCodes : List Byte :=
  [0x00, 0x01, 0x10, 0x11, 0x12, 0x13, 0x14, 0x20, 0x21, 0x30, 0x31, 0x32,
   0x40, 0x41, 0x42, 0x43, 0x44, 0x45, 0x46, 0x50, 0x51, 0x52, 0x53, 0x54]

/-- The illegal command words of R102, forms (a), (b) and (c). -/
def IllegalWord (w : CmdWord) : Prop :=
  cmdField w ∉ commandCodes ∨
  (cmdField w ∈ ([0x00, 0x01, 0x20, 0x21] : List Byte) ∧ 0xFFFF < (aField w).toNat) ∨
  (cmdField w = 0x13 ∧ ((dField w).toNat = 0 ∨ 5 < (dField w).toNat))

/-- The elements of R255 are those of `t`: `MAP`, `FAMILY`, `ROM`, `STAGE`, `x[0..2]`, `CTRL`, `CRAM`. -/
structure State.SameMachine (s t : State) : Prop where
  map : t.map = s.map
  family : t.family = s.family
  rom : t.rom = s.rom
  stage : t.stage = s.stage
  x0 : t.x0 = s.x0
  x1 : t.x1 = s.x1
  x2 : t.x2 = s.x2
  ctrl : t.ctrl = s.ctrl
  cram : t.cram = s.cram

/-- The debug registers `BP`, `RUNTO_VALID`, `RUNTO_ADDR`, `RUNTO_QUAL`, `RUNTO_HIT` are those of `t`. -/
structure State.SameDebug (s t : State) : Prop where
  bp : t.bp = s.bp
  runtoValid : t.runtoValid = s.runtoValid
  runtoAddr : t.runtoAddr = s.runtoAddr
  runtoQual : t.runtoQual = s.runtoQual
  runtoHit : t.runtoHit = s.runtoHit

end Sys2Proof.Machine
end

