-- ==== Sys2Proof/WellFormed.lean ====
section
/-! DEFINITION. Which terms of `Instr` an encoding exists for. For a command: the legality condition a mask
cannot express (spec/30_encoding.md rules R102, R109) and the payload's length (R93, R304). For an
address-decode row: the addresses of its column in R96. -/

namespace Sys2Proof

/-- The delegated addresses 0x0000–0xBFFF (R62). -/
def inWindows (a : Addr) : Bool := decide (a.toNat < 0xC000)

/-- The addresses 0xC000–0xFFFF (R64). -/
def inDirect (a : Addr) : Bool := decide (0xC000 ≤ a.toNat)

/-- The addresses 0xC000–0xFFFB, direct in the Sega family (R64). -/
def inSegaDirect (a : Addr) : Bool := decide (0xC000 ≤ a.toNat) && decide (a.toNat < 0xFFFC)

/-- Window 2, 0x8000–0xBFFF (R63). -/
def inWindow2 (a : Addr) : Bool := decide (0x8000 ≤ a.toNat) && decide (a.toNat < 0xC000)

/-- The well-formed instructions. -/
def Instr.wellFormed : Instr → Bool
  | .read _ _ => true
  | .write _ _ _ => true
  | .init => true
  | .reset => true
  | .loadrom size data => payloadOk size data
  | .setrule tag => decide (1 ≤ tag.toNat) && decide (tag.toNat ≤ 5)
  | .getrule => true
  | .retrieve _ => true
  | .load _ _ => true
  | .statesize => true
  | .savestate _ => true
  | .loadstate size data => payloadOk size data
  | .bpadd _ _ => true
  | .bpremove _ _ => true
  | .bpcount => true
  | .bplist _ => true
  | .runtoset _ _ => true
  | .runtoclear => true
  | .getrunto => true
  | .rombank _ => true
  | .rambank => true
  | .peekrom _ => true
  | .peekcram _ => true
  | .pokecram _ _ => true
  | .noneRDirect a => inDirect a
  | .noneRRest a => inWindows a
  | .noneWDirect a _ => inDirect a
  | .noneWRest a _ => inWindows a
  | .romOnlyRDirect a => inDirect a
  | .romOnlyRRest a => inWindows a
  | .romOnlyWDirect a _ => inDirect a
  | .romOnlyWRest a _ => inWindows a
  | .sg1000RDirect a => inDirect a
  | .sg1000RRest a => inWindows a
  | .sg1000WDirect a _ => inDirect a
  | .sg1000WRest a _ => inWindows a
  | .segaRRegs a => decide (0xFFFC ≤ a.toNat)
  | .segaRDirect a => inSegaDirect a
  | .segaRWin2Cram a => inWindow2 a
  | .segaRWin2Rom a => inWindow2 a
  | .segaRWin01 a => decide (a.toNat < 0x8000)
  | .segaWCtrl _ => true
  | .segaWX0 _ => true
  | .segaWX1 _ => true
  | .segaWX2 _ => true
  | .segaWDirect a _ => inSegaDirect a
  | .segaWWin2Cram a _ => inWindow2 a
  | .segaWRest a _ => inWindows a
  | .codemastersRDirect a => inDirect a
  | .codemastersRRest a => inWindows a
  | .codemastersWX0 _ => true
  | .codemastersWX1 _ => true
  | .codemastersWX2 _ => true
  | .codemastersWDirect a _ => inDirect a
  | .codemastersWRest a _ =>
    inWindows a && decide (a.toNat ≠ 0) && decide (a.toNat ≠ 0x4000) && decide (a.toNat ≠ 0x8000)
  | .koreanRDirect a => inDirect a
  | .koreanRRest a => inWindows a
  | .koreanWX2 _ => true
  | .koreanWDirect a _ => inDirect a
  | .koreanWRest a _ => inWindows a && decide (a.toNat ≠ 0xA000)

end Sys2Proof
end

