-- ==== Sys2Proof/Certificates/Slice0/Obligations.lean ====
section
/-! DEFINITION. The statements about this model. A rule R<n> is a rule of spec/; a log entry is a file of
notes/assumptions/. `resp st d v` is R91's response, with no output stream. A memory is spoken of byte by byte,
through `Memory.read` and `ByteSeq.get`. -/

section Statements

open Sys2Proof Sys2Proof.Machine

/-! ### Encoding -/

/-- Words written out from R90, R92 and R108 (spec/95 ENC-1, 2, 7, 9, 11, 22, 23) and accesses at the edges of
R96 decode to the instruction they stand for. A check of fixed values. -/
def Obligations.DecodeOfWordsFromTheSpec : Prop :=
  decodeWord 0x00004000123400 ByteSeq.empty = .ok (.read 0x4000 0x1234) ∧
  decodeWord 0x0100FFFE012303 ByteSeq.empty = .ok (.write 0xFFFE 0x0123 0x03) ∧
  decodeWord 0x10ABCDEF123456 ByteSeq.empty = .ok .init ∧
  decodeWord 0x2100C000000099 ByteSeq.empty = .ok (.load 0xC000 0x99) ∧
  decodeWord 0x31018005000000 ByteSeq.empty = .ok (.savestate 98309) ∧
  decodeWord 0x40004000FF0300 ByteSeq.empty = .ok (.bpadd 0x004000 (some 0x03)) ∧
  decodeWord 0x500000000000FE ByteSeq.empty = .ok (.rombank 2) ∧
  decodeAccess .sega .write true 0xBFFF 0x5A = .ok (.segaWWin2Cram 0xBFFF 0x5A) ∧
  decodeAccess .sega .read false 0xFFFC 0x00 = .ok (.segaRRegs 0xFFFC) ∧
  decodeAccess .codemasters .write false 0x8000 0x05 = .ok (.codemastersWX2 0x05) ∧
  decodeAccess .korean .write false 0xA001 0x09 = .ok (.koreanWRest 0xA001 0x09)

/-- No operand bit is lost between the encoder and the decoder, for every instruction of the table. -/
def Obligations.DecodeInvertsEncode : Prop :=
  ∀ i : Instr, i.wellFormed = true → decode (encode i) = .ok i

/-- R90: `word = CMD * 2^48 + A * 2^24 + P * 2^8 + D`; R93: `A` payload bytes after `CMD` 0x12 and 0x32, none
after the others; R279: the CPU port takes the codes 0x00 and 0x01 only. -/
def Obligations.CommandWordLayout : Prop :=
  ∀ w : CmdWord,
    w.toNat = (cmdField w).toNat * 2 ^ 48 + (aField w).toNat * 2 ^ 24 + (pField w).toNat * 2 ^ 8 +
      (dField w).toNat ∧
    payloadLength w = (if (cmdField w).toNat = 0x12 ∨ (cmdField w).toNat = 0x32 then (aField w).toNat else 0) ∧
    (commandPort (cmdField w) = .cpu ↔ (cmdField w).toNat ≤ 1)

/-- R91: `STATUS * 2^32 + RDATA * 2^24 + RVAL`; R100: the eight status codes, none from 0x8 on. -/
def Obligations.ResponseWordLayout : Prop :=
  (∀ r : Response,
    r.word.toNat = r.status.code.toNat * 2 ^ 32 + r.rdata.toNat * 2 ^ 24 + r.rval.toNat ∧
    r.status.code.toNat < 8) ∧
  Status.ok.code = 0x0 ∧ Status.invalidImage.code = 0x1 ∧ Status.unsupportedImage.code = 0x2 ∧
  Status.stateMismatch.code = 0x3 ∧ Status.noRule.code = 0x4 ∧ Status.illegalCmd.code = 0x5 ∧
  Status.bufferTooSmall.code = 0x6 ∧ Status.ignored.code = 0x7

/-- R99: the six tags, and that 0x06 to 0xFF are no family's. -/
def Obligations.FamilyTagTable : Prop :=
  Family.noRule.tag = 0x00 ∧ Family.romOnly.tag = 0x01 ∧ Family.sega.tag = 0x02 ∧
  Family.codemasters.tag = 0x03 ∧ Family.korean.tag = 0x04 ∧ Family.sg1000.tag = 0x05 ∧
  ∀ t : Byte, (Family.ofTag t = none ↔ 6 ≤ t.toNat) ∧ ∀ f, (Family.ofTag t = some f ↔ f.tag = t)

/-- R96, column 'addresses': which row an access decodes to, for every family, direction, `CTRL[3]` and address. -/
def Obligations.AddressDecoderRows : Prop :=
  ∀ (c : Bool) (a : Addr) (v : Byte),
    decodeAccess .noRule .read c a v = .ok (if 0xC000 ≤ a.toNat then .noneRDirect a else .noneRRest a) ∧
    decodeAccess .noRule .write c a v = .ok (if 0xC000 ≤ a.toNat then .noneWDirect a v else .noneWRest a v) ∧
    decodeAccess .romOnly .read c a v = .ok (if 0xC000 ≤ a.toNat then .romOnlyRDirect a else .romOnlyRRest a) ∧
    decodeAccess .romOnly .write c a v =
      .ok (if 0xC000 ≤ a.toNat then .romOnlyWDirect a v else .romOnlyWRest a v) ∧
    decodeAccess .sg1000 .read c a v = .ok (if 0xC000 ≤ a.toNat then .sg1000RDirect a else .sg1000RRest a) ∧
    decodeAccess .sg1000 .write c a v =
      .ok (if 0xC000 ≤ a.toNat then .sg1000WDirect a v else .sg1000WRest a v) ∧
    decodeAccess .sega .read c a v =
      .ok (if 0xFFFC ≤ a.toNat then .segaRRegs a
        else if 0xC000 ≤ a.toNat then .segaRDirect a
        else if 0x8000 ≤ a.toNat then (if c = true then .segaRWin2Cram a else .segaRWin2Rom a)
        else .segaRWin01 a) ∧
    decodeAccess .sega .write c a v =
      .ok (if a.toNat = 0xFFFC then .segaWCtrl v
        else if a.toNat = 0xFFFD then .segaWX0 v
        else if a.toNat = 0xFFFE then .segaWX1 v
        else if a.toNat = 0xFFFF then .segaWX2 v
        else if 0xC000 ≤ a.toNat then .segaWDirect a v
        else if 0x8000 ≤ a.toNat ∧ c = true then .segaWWin2Cram a v
        else .segaWRest a v) ∧
    decodeAccess .codemasters .read c a v =
      .ok (if 0xC000 ≤ a.toNat then .codemastersRDirect a else .codemastersRRest a) ∧
    decodeAccess .codemasters .write c a v =
      .ok (if a.toNat = 0x0000 then .codemastersWX0 v
        else if a.toNat = 0x4000 then .codemastersWX1 v
        else if a.toNat = 0x8000 then .codemastersWX2 v
        else if 0xC000 ≤ a.toNat then .codemastersWDirect a v
        else .codemastersWRest a v) ∧
    decodeAccess .korean .read c a v = .ok (if 0xC000 ≤ a.toNat then .koreanRDirect a else .koreanRRest a) ∧
    decodeAccess .korean .write c a v =
      .ok (if a.toNat = 0xA000 then .koreanWX2 v
        else if 0xC000 ≤ a.toNat then .koreanWDirect a v
        else .koreanWRest a v)

/-! ### The step and the protocol -/

/-- What a step does with the oldest command at the ports, if it keeps the protocol: the meaning of the
instruction it decodes to, on the state without that command; `ILLEGAL_CMD` if it decodes to none. With no
command the state stays (log entry 5). -/
def Obligations.StepRunsTheDecodedInstruction : Prop :=
  (∀ s : State, s.inbox = [] → step s = .next s) ∧
  ∀ (s : State) (r : Request) (rest : List Request),
    s.inbox = r :: rest → r.Proper → (s.initialised = true ∨ cmdField r.word = 0x10) →
    (∀ i, decodeWord r.word r.payload = .ok i → step s = exec i { s with inbox := rest }) ∧
    (∀ e, decodeWord r.word r.payload = .error e →
      step s = .next { s with inbox := rest, response := some (resp .illegalCmd 0x00 0) })

/-- R304, (a) to (e): each violation of the protocol is refused. How a request shows a violation is the model's
reading, log entry 6 (DEDUCED): the port clauses look at the code alone and before decoding, so a reserved code on
the CPU port is refused and not answered `ILLEGAL_CMD` (R102, R276, R279); clauses (c) and (e) read the tag with
which the harness says when a request is issued. -/
def Obligations.ProtocolViolationsAreRefused : Prop :=
  ∀ (s : State) (r : Request) (rest : List Request), s.inbox = r :: rest →
    (s.initialised = false → cmdField r.word ≠ 0x10 → ∃ e, step s = .refused e) ∧
    (r.port = .host → (cmdField r.word = 0x00 ∨ cmdField r.word = 0x01) → ∃ e, step s = .refused e) ∧
    (r.port = .cpu → cmdField r.word ≠ 0x00 → cmdField r.word ≠ 0x01 → ∃ e, step s = .refused e) ∧
    (r.port = .host → r.timing = .midInstruction → ∃ e, step s = .refused e) ∧
    ((cmdField r.word = 0x12 ∨ cmdField r.word = 0x32) → r.payload.size ≠ (aField r.word).toNat →
      ∃ e, step s = .refused e) ∧
    (r.timing = .overlapping → ∃ e, step s = .refused e)

/-- R10, R128, R274: nothing but a violation of the protocol is refused, where a payload that is not in canonical
form counts as a violation: that condition is the model's own (log entry 13). A command that keeps it is answered with
a response in a next state, it alone is taken from the ports, and a READ or WRITE of a 16-bit address is
answered `OK`. -/
def Obligations.ProperCommandIsAnswered : Prop :=
  ∀ (s : State) (r : Request) (rest : List Request),
    s.inbox = r :: rest → r.Proper → (s.initialised = true ∨ cmdField r.word = 0x10) →
    ∃ t q, step s = .next t ∧ t.inbox = rest ∧ t.initialised = true ∧ t.response = some q ∧
      ((cmdField r.word).toNat ≤ 1 → (aField r.word).toNat ≤ 0xFFFF → q.status = .ok)

/-- R102, R271: an illegal word returns `ILLEGAL_CMD` and changes no state, and announces no payload; and no other
word returns that status. -/
def Obligations.IllegalWordsAreAnswered : Prop :=
  ∀ (s : State) (r : Request) (rest : List Request),
    s.inbox = r :: rest → r.Proper → s.initialised = true →
    (IllegalWord r.word →
      step s = .next { s with inbox := rest, response := some (resp .illegalCmd 0x00 0) } ∧
      payloadLength r.word = 0) ∧
    (¬ IllegalWord r.word → ∃ t q, step s = .next t ∧ t.response = some q ∧ q.status ≠ .illegalCmd)

/-! ### CPU access -/

/-- R120, with the byte of R68 spelled out place by place, and the run-to hook. -/
def Obligations.ReadReturnsTheResolvedByte : Prop :=
  (∀ (a : Addr) (p : BitVec 16) (d : Byte) (q : ByteSeq),
    decodeWord (mkWord 0x00 (0x00#8 ++ a) p d) q = .ok (.read a p)) ∧
  commandPort 0x00 = .cpu ∧
  ∀ (s : State) (a : Addr) (p : BitVec 16), ∃ b : Byte,
    exec (.read a p) s = .next { s with
      runtoHit := s.runtoHit || (s.runtoValid && decide (a = s.runtoAddr) && s.qualMatches s.runtoQual a)
      response := some (resp .ok b 0) } ∧
    b = s.memRead a ∧
    (0xC000 ≤ a.toNat → (s.family = .sega → a.toNat < 0xFFFC) → b = s.map.read a.toNat) ∧
    (a.toNat < 0xC000 → s.family = .noRule → b = 0xFF) ∧
    (a.toNat < 0xC000 → s.family = .romOnly ∨ s.family = .sg1000 → b = s.rom.get (a.toNat % s.rom.size)) ∧
    (s.family = .sega → a.toNat = 0xFFFC → b = s.ctrl) ∧
    (s.family = .sega → a.toNat = 0xFFFD → b = s.x0) ∧
    (s.family = .sega → a.toNat = 0xFFFE → b = s.x1) ∧
    (s.family = .sega → a.toNat = 0xFFFF → b = s.x2) ∧
    (s.family = .sega → 0x8000 ≤ a.toNat → a.toNat < 0xC000 → s.ctrl.getLsbD 3 = true →
      b = s.cram.read ((if s.ctrl.getLsbD 2 then 16384 else 0) + a.toNat % 16384)) ∧
    ((s.family = .sega ∧ ¬ (0x8000 ≤ a.toNat ∧ s.ctrl.getLsbD 3 = true)) ∨ s.family = .codemasters ∨
        s.family = .korean → a.toNat < 0xC000 →
      b = s.rom.get ((if a.toNat < 0x4000 then s.x0 else if a.toNat < 0x8000 then s.x1 else s.x2).toNat %
        (s.rom.size / 16384) * 16384 + a.toNat % 16384))

/-- R121 and R73: everything a WRITE can change. One byte of `MAP` at a direct address, one byte of `CRAM` through
the Sega window 2, one register at its select address, `RUNTO_HIT`; nothing else, whatever the family. -/
def Obligations.WriteChangesOnlyWhatItSelects : Prop :=
  (∀ (a : Addr) (p : BitVec 16) (d : Byte) (q : ByteSeq),
    decodeWord (mkWord 0x01 (0x00#8 ++ a) p d) q = .ok (.write a p d)) ∧
  commandPort 0x01 = .cpu ∧
  ∀ (s : State) (a : Addr) (p : BitVec 16) (v : Byte), ∃ m c y0 y1 y2 k,
    exec (.write a p v) s = .next { s with
      map := m, cram := c, x0 := y0, x1 := y1, x2 := y2, ctrl := k
      runtoHit := s.runtoHit || (s.runtoValid && decide (a = s.runtoAddr) && s.qualMatches s.runtoQual a)
      response := some (resp .ok 0x00 0) } ∧
    (∀ b, m.read b =
      if b = a.toNat ∧ 0xC000 ≤ a.toNat ∧ (s.family = .sega → a.toNat < 0xFFFC) then v else s.map.read b) ∧
    (∀ n, c.read n =
      if s.family = .sega ∧ 0x8000 ≤ a.toNat ∧ a.toNat < 0xC000 ∧ s.ctrl.getLsbD 3 = true ∧
        n = (if s.ctrl.getLsbD 2 then 16384 else 0) + a.toNat % 16384 then v else s.cram.read n) ∧
    k = (if s.family = .sega ∧ a.toNat = 0xFFFC then v else s.ctrl) ∧
    y0 = (if (s.family = .sega ∧ a.toNat = 0xFFFD) ∨ (s.family = .codemasters ∧ a.toNat = 0x0000)
      then v else s.x0) ∧
    y1 = (if (s.family = .sega ∧ a.toNat = 0xFFFE) ∨ (s.family = .codemasters ∧ a.toNat = 0x4000)
      then v else s.x1) ∧
    y2 = (if (s.family = .sega ∧ a.toNat = 0xFFFF) ∨ (s.family = .codemasters ∧ a.toNat = 0x8000) ∨
      (s.family = .korean ∧ a.toNat = 0xA000) then v else s.x2)

/-- R122: two READs or WRITEs that differ only in `P` are equivalent. -/
def Obligations.PcOperandHasNoEffect : Prop :=
  ∀ (s : State) (rest : List Request) (port : Port) (timing : Timing) (q : ByteSeq)
    (c : Byte) (a : Num24) (p p' : BitVec 16) (d : Byte), c = 0x00 ∨ c = 0x01 →
    step { s with inbox := ⟨port, timing, mkWord c a p d, q⟩ :: rest } =
      step { s with inbox := ⟨port, timing, mkWord c a p' d, q⟩ :: rest }

/-- R129: READ changes nothing but `RUNTO_HIT` (and gives its response), and its byte is a function of the address
and of the state without the debug registers. -/
def Obligations.ReadIsPure : Prop :=
  ∀ (s s' : State) (a : Addr) (p p' : BitVec 16), s.SameMachine s' → ∃ b h h',
    exec (.read a p) s = .next { s with runtoHit := h, response := some (resp .ok b 0) } ∧
    exec (.read a p') s' = .next { s' with runtoHit := h', response := some (resp .ok b 0) }

/-- R65 and R123: a READ of a delegated address returns a byte that does not depend on `MAP`, a READ of a direct
address one that depends on nothing else; R62 says which is which. -/
def Obligations.ShadowBytesAreInvisible : Prop :=
  ∀ (s s' : State) (a : Addr) (p : BitVec 16), ∃ b h,
    exec (.read a p) s = .next { s with runtoHit := h, response := some (resp .ok b 0) } ∧
    ((a.toNat < 0xC000 ∨ (s.family = .sega ∧ 0xFFFC ≤ a.toNat)) → ∀ m,
      exec (.read a p) { s with map := m } =
        .next { s with map := m, runtoHit := h, response := some (resp .ok b 0) }) ∧
    (¬ (a.toNat < 0xC000 ∨ (s.family = .sega ∧ 0xFFFC ≤ a.toNat)) → s'.map = s.map → s'.family = s.family →
      ∃ h', exec (.read a p) s' = .next { s' with runtoHit := h', response := some (resp .ok b 0) })

/-- R68: every ROM offset produced is below `ROM_SIZE` and every cartridge RAM offset below 32768. The invariant
is needed: it says that an installed image is not empty. -/
def Obligations.ResolvedOffsetsAreInBounds : Prop :=
  ∀ (s : State) (a : Addr), s.Inv →
    (∀ p, s.resolve a = .romCell p → p < s.rom.size) ∧
    (∀ c, s.resolve a = .cramCell c → c < 32768) ∧
    (∀ i, s.resolve a = .regCell i → i < 4 ∧ s.family = .sega) ∧
    (s.resolve a = .openBus → s.family = .noRule)

/-- R97 and R77, the source's laws S3 and S4: after a WRITE of `v` to the select location of window `w`, the next
READ anywhere in that window returns the byte of bank `v mod NB`. -/
def Obligations.BankSelectTakesEffectAtOnce : Prop :=
  ∀ (s : State) (w : Nat) (a : Addr) (v : Byte) (p p' : BitVec 16), w < 3 → a.toNat / 16384 = w →
    (s.family = .sega → (w = 2 → s.ctrl.getLsbD 3 = false) →
      ∃ t u, exec (.write (BitVec.ofNat 16 (0xFFFD + w)) p v) s = .next t ∧ exec (.read a p') t = .next u ∧
        u.response =
          some (resp .ok (s.rom.get (v.toNat % (s.rom.size / 16384) * 16384 + a.toNat % 16384)) 0)) ∧
    (s.family = .codemasters →
      ∃ t u, exec (.write (BitVec.ofNat 16 (w * 16384)) p v) s = .next t ∧ exec (.read a p') t = .next u ∧
        u.response =
          some (resp .ok (s.rom.get (v.toNat % (s.rom.size / 16384) * 16384 + a.toNat % 16384)) 0)) ∧
    (s.family = .korean → w = 2 →
      ∃ t u, exec (.write 0xA000 p v) s = .next t ∧ exec (.read a p') t = .next u ∧
        u.response =
          some (resp .ok (s.rom.get (v.toNat % (s.rom.size / 16384) * 16384 + a.toNat % 16384)) 0))

/-! ### The address-decode rows -/

/-- R95: the meaning of a row completes exactly where an access decodes to it: in a state whose family and
`CTRL[3]` select the row for the instruction's address. Everywhere else it is refused by name (the refusal is the
model's: READ and WRITE never meet it; log entry 12). -/
def Obligations.RowCompletesExactlyWhereSelected : Prop :=
  ∀ q ∈ addrTable, ∀ (s : State) (a : Addr) (v : Byte),
    ((∃ b, decodeAccess s.family q.dir (s.ctrl.getLsbD 3) b v = .ok (q.row.instr a v)) →
      ∃ t, exec (q.row.instr a v) s = .next t) ∧
    ((∀ b, decodeAccess s.family q.dir (s.ctrl.getLsbD 3) b v ≠ .ok (q.row.instr a v)) →
      exec (q.row.instr a v) s = .refused (.rowNotSelected q.row))

/-- R120, R64: the direct read rows return `MAP[a]` and change nothing. -/
def Obligations.DirectReadRows : Prop :=
  ∀ (s : State) (a : Addr), 0xC000 ≤ a.toNat →
    (s.family = .noRule →
      exec (.noneRDirect a) s = .next { s with response := some (resp .ok (s.map.read a.toNat) 0) }) ∧
    (s.family = .romOnly →
      exec (.romOnlyRDirect a) s = .next { s with response := some (resp .ok (s.map.read a.toNat) 0) }) ∧
    (s.family = .sg1000 →
      exec (.sg1000RDirect a) s = .next { s with response := some (resp .ok (s.map.read a.toNat) 0) }) ∧
    (s.family = .sega → a.toNat < 0xFFFC →
      exec (.segaRDirect a) s = .next { s with response := some (resp .ok (s.map.read a.toNat) 0) }) ∧
    (s.family = .codemasters →
      exec (.codemastersRDirect a) s = .next { s with response := some (resp .ok (s.map.read a.toNat) 0) }) ∧
    (s.family = .korean →
      exec (.koreanRDirect a) s = .next { s with response := some (resp .ok (s.map.read a.toNat) 0) })

/-- R121, R64: the direct write rows store one byte of `MAP`, with no mirror, and change nothing else. -/
def Obligations.DirectWriteRows : Prop :=
  ∀ (s : State) (a : Addr) (v : Byte), 0xC000 ≤ a.toNat → ∃ m : Memory,
    (∀ b, m.read b = if b = a.toNat then v else s.map.read b) ∧
    (s.family = .noRule →
      exec (.noneWDirect a v) s = .next { s with map := m, response := some (resp .ok 0x00 0) }) ∧
    (s.family = .romOnly →
      exec (.romOnlyWDirect a v) s = .next { s with map := m, response := some (resp .ok 0x00 0) }) ∧
    (s.family = .sg1000 →
      exec (.sg1000WDirect a v) s = .next { s with map := m, response := some (resp .ok 0x00 0) }) ∧
    (s.family = .sega → a.toNat < 0xFFFC →
      exec (.segaWDirect a v) s = .next { s with map := m, response := some (resp .ok 0x00 0) }) ∧
    (s.family = .codemasters →
      exec (.codemastersWDirect a v) s = .next { s with map := m, response := some (resp .ok 0x00 0) }) ∧
    (s.family = .korean →
      exec (.koreanWDirect a v) s = .next { s with map := m, response := some (resp .ok 0x00 0) })

/-- R125, R140, R143, R146: reads of 0x0000–0xBFFF with no rule and in the unbanked families. -/
def Obligations.UnbankedReadRows : Prop :=
  ∀ (s : State) (a : Addr), a.toNat < 0xC000 →
    (s.family = .noRule → exec (.noneRRest a) s = .next { s with response := some (resp .ok 0xFF 0) }) ∧
    (s.family = .romOnly →
      exec (.romOnlyRRest a) s =
        .next { s with response := some (resp .ok (s.rom.get (a.toNat % s.rom.size)) 0) }) ∧
    (s.family = .sg1000 →
      exec (.sg1000RRest a) s =
        .next { s with response := some (resp .ok (s.rom.get (a.toNat % s.rom.size)) 0) }) ∧
    (49152 ≤ s.rom.size → a.toNat % s.rom.size = a.toNat)

/-- R125, R141, R144, R160, R175, R183: the last write row of every family stores nothing and selects nothing. -/
def Obligations.IgnoredWriteRows : Prop :=
  ∀ (s : State) (a : Addr) (v : Byte), a.toNat < 0xC000 →
    (s.family = .noRule → exec (.noneWRest a v) s = .next { s with response := some (resp .ok 0x00 0) }) ∧
    (s.family = .romOnly → exec (.romOnlyWRest a v) s = .next { s with response := some (resp .ok 0x00 0) }) ∧
    (s.family = .sg1000 → exec (.sg1000WRest a v) s = .next { s with response := some (resp .ok 0x00 0) }) ∧
    (s.family = .sega → (0x8000 ≤ a.toNat → s.ctrl.getLsbD 3 = false) →
      exec (.segaWRest a v) s = .next { s with response := some (resp .ok 0x00 0) }) ∧
    (s.family = .codemasters → a.toNat ≠ 0x0000 → a.toNat ≠ 0x4000 → a.toNat ≠ 0x8000 →
      exec (.codemastersWRest a v) s = .next { s with response := some (resp .ok 0x00 0) }) ∧
    (s.family = .korean → a.toNat ≠ 0xA000 →
      exec (.koreanWRest a v) s = .next { s with response := some (resp .ok 0x00 0) })

/-- R151 to R154: the four Sega read rows other than the direct one. `CTRL` has no influence on windows 0 and 1,
and the raw registers are read, not the reduced banks. -/
def Obligations.SegaReadRows : Prop :=
  ∀ (s : State) (a : Addr), s.family = .sega →
    (a.toNat < 0x8000 →
      exec (.segaRWin01 a) s = .next { s with response := some (resp .ok (s.rom.get
        ((if a.toNat < 0x4000 then s.x0 else s.x1).toNat % (s.rom.size / 16384) * 16384 + a.toNat % 16384)) 0) }) ∧
    (0x8000 ≤ a.toNat → a.toNat < 0xC000 → s.ctrl.getLsbD 3 = false →
      exec (.segaRWin2Rom a) s = .next { s with response := some (resp .ok (s.rom.get
        (s.x2.toNat % (s.rom.size / 16384) * 16384 + a.toNat % 16384)) 0) }) ∧
    (0x8000 ≤ a.toNat → a.toNat < 0xC000 → s.ctrl.getLsbD 3 = true →
      exec (.segaRWin2Cram a) s = .next { s with response := some (resp .ok
        (s.cram.read ((if s.ctrl.getLsbD 2 then 16384 else 0) + a.toNat % 16384)) 0) }) ∧
    (0xFFFC ≤ a.toNat →
      exec (.segaRRegs a) s = .next { s with response := some (resp .ok
        (if a.toNat = 0xFFFC then s.ctrl else if a.toNat = 0xFFFD then s.x0
          else if a.toNat = 0xFFFE then s.x1 else s.x2) 0) })

/-- R155 to R158: the four Sega register rows store all eight bits in one register and nothing in `MAP`. -/
def Obligations.SegaRegisterWriteRows : Prop :=
  ∀ (s : State) (v : Byte), s.family = .sega →
    exec (.segaWCtrl v) s = .next { s with ctrl := v, response := some (resp .ok 0x00 0) } ∧
    exec (.segaWX0 v) s = .next { s with x0 := v, response := some (resp .ok 0x00 0) } ∧
    exec (.segaWX1 v) s = .next { s with x1 := v, response := some (resp .ok 0x00 0) } ∧
    exec (.segaWX2 v) s = .next { s with x2 := v, response := some (resp .ok 0x00 0) }

/-- R159: the write into window 2 while cartridge RAM is mapped changes one byte of `CRAM`, at the offset that the
read of the same address uses. -/
def Obligations.SegaCartridgeRamWriteRow : Prop :=
  ∀ (s : State) (a : Addr) (v : Byte), s.family = .sega → 0x8000 ≤ a.toNat → a.toNat < 0xC000 →
    s.ctrl.getLsbD 3 = true → ∃ c : Memory,
      exec (.segaWWin2Cram a v) s = .next { s with cram := c, response := some (resp .ok 0x00 0) } ∧
      (∀ n, c.read n =
        if n = (if s.ctrl.getLsbD 2 then 16384 else 0) + a.toNat % 16384 then v else s.cram.read n) ∧
      exec (.segaRWin2Cram a) { s with cram := c } =
        .next { s with cram := c, response := some (resp .ok v 0) }

/-- R171 to R174: the Codemasters read, and the three trigger writes, which store one register and nothing else. -/
def Obligations.CodemastersRows : Prop :=
  ∀ (s : State) (a : Addr) (v : Byte), s.family = .codemasters →
    (a.toNat < 0xC000 →
      exec (.codemastersRRest a) s = .next { s with response := some (resp .ok (s.rom.get
        ((if a.toNat < 0x4000 then s.x0 else if a.toNat < 0x8000 then s.x1 else s.x2).toNat %
          (s.rom.size / 16384) * 16384 + a.toNat % 16384)) 0) }) ∧
    exec (.codemastersWX0 v) s = .next { s with x0 := v, response := some (resp .ok 0x00 0) } ∧
    exec (.codemastersWX1 v) s = .next { s with x1 := v, response := some (resp .ok 0x00 0) } ∧
    exec (.codemastersWX2 v) s = .next { s with x2 := v, response := some (resp .ok 0x00 0) }

/-- R181, R182: the Korean read, with windows 0 and 1 on banks 0 and 1 in every state that the invariant allows,
and the register write at 0xA000. -/
def Obligations.KoreanRows : Prop :=
  ∀ (s : State) (a : Addr) (v : Byte), s.family = .korean →
    (a.toNat < 0xC000 → s.Inv →
      exec (.koreanRRest a) s = .next { s with response := some (resp .ok (s.rom.get
        (if a.toNat < 0x4000 then a.toNat % 16384
          else if a.toNat < 0x8000 then 1 % (s.rom.size / 16384) * 16384 + a.toNat % 16384
          else s.x2.toNat % (s.rom.size / 16384) * 16384 + a.toNat % 16384)) 0) }) ∧
    exec (.koreanWX2 v) s = .next { s with x2 := v, response := some (resp .ok 0x00 0) }

/-! ### Lifecycle -/

/-- R190: INIT gives every element its value, in any state, also before the first INIT. -/
def Obligations.InitDefinesEveryElement : Prop :=
  (∀ (a : Num24) (p : BitVec 16) (d : Byte) (q : ByteSeq), decodeWord (mkWord 0x10 a p d) q = .ok .init) ∧
  commandPort 0x10 = .host ∧
  ∀ s : State, ∃ m c r g,
    exec .init s = .next { s with
      map := m, family := .noRule, rom := r, stage := g, x0 := 0x00, x1 := 0x01, x2 := 0x02, ctrl := 0x00
      cram := c, bp := [], runtoValid := false, runtoAddr := 0x0000, runtoQual := none, runtoHit := false
      initialised := true, response := some (resp .ok 0x00 0) } ∧
    (∀ a, m.read a = 0x00) ∧ (∀ n, c.read n = 0x00) ∧ r.size = 0 ∧ g.size = 0

/-- The state after reset is the state after an INIT at the ports' rest (log entry 1: the model takes the first
INIT as the machine's reset, R290), element by element of R35's column 'after INIT'. -/
def Obligations.ResetIsTheStateAfterInit : Prop :=
  (∀ s : State, exec .init s = .next { State.reset with
    draws := s.draws, inbox := s.inbox, response := some (resp .ok 0x00 0) }) ∧
  (∀ a, State.reset.map.read a = 0x00) ∧ State.reset.family = .noRule ∧ State.reset.rom.size = 0 ∧
  State.reset.stage.size = 0 ∧ State.reset.x0 = 0x00 ∧ State.reset.x1 = 0x01 ∧ State.reset.x2 = 0x02 ∧
  State.reset.ctrl = 0x00 ∧ (∀ n, State.reset.cram.read n = 0x00) ∧ State.reset.bp = [] ∧
  State.reset.runtoValid = false ∧ State.reset.runtoHit = false ∧ State.reset.runtoAddr = 0x0000 ∧
  State.reset.runtoQual = none

/-- R191, R192, R200: RESET clears all of `MAP` and sets the four registers; with no rule it changes nothing. -/
def Obligations.ResetClearsMapAndRegisters : Prop :=
  (∀ (a : Num24) (p : BitVec 16) (d : Byte) (q : ByteSeq), decodeWord (mkWord 0x11 a p d) q = .ok .reset) ∧
  commandPort 0x11 = .host ∧
  ∀ s : State,
    (s.family = .noRule → exec .reset s = .next { s with response := some (resp .noRule 0x00 0) }) ∧
    (s.family ≠ .noRule → ∃ m : Memory, exec .reset s = .next { s with
        map := m, x0 := 0x00, x1 := 0x01, x2 := (if s.family = .codemasters then 0x00 else 0x02), ctrl := 0x00
        response := some (resp .ok 0x00 0) } ∧
      ∀ a, m.read a = 0x00)

/-- R193, R194, R267: LOADROM stages the payload when its size is acceptable, and changes nothing otherwise; a
payload of another length is refused (R304 (d)). -/
def Obligations.LoadromStagesTheImage : Prop :=
  (∀ (n : Num24) (p : BitVec 16) (d : Byte) (q : ByteSeq),
    decodeWord (mkWord 0x12 n p d) q = .ok (.loadrom n q)) ∧
  commandPort 0x12 = .host ∧
  ∀ (s : State) (n : Num24) (q : ByteSeq), q.wf = true →
    (q.size = n.toNat → 8192 ≤ n.toNat ∧ n.toNat ≤ 4194304 ∧ n.toNat % 8192 = 0 →
      exec (.loadrom n q) s = .next { s with stage := q, response := some (resp .ok 0x00 0) }) ∧
    (q.size = n.toNat → ¬ (8192 ≤ n.toNat ∧ n.toNat ≤ 4194304 ∧ n.toNat % 8192 = 0) →
      exec (.loadrom n q) s = .next { s with response := some (resp .invalidImage 0x00 0) }) ∧
    (q.size ≠ n.toNat → exec (.loadrom n q) s = .refused .streamLength)

/-- R195, R196, R200, R268: SETRULE installs the staged image and a fresh rule, or changes nothing. -/
def Obligations.SetruleInstallsTheImage : Prop :=
  (∀ (a : Num24) (p : BitVec 16) (d : Byte) (q : ByteSeq),
    decodeWord (mkWord 0x13 a p d) q = .ok (.setrule d)) ∧
  commandPort 0x13 = .host ∧
  ∀ (s : State) (fam : Family) (g : Nat),
    fam ≠ .noRule →
    g = (if fam = .sega ∨ fam = .codemasters ∨ fam = .korean then 16384 else 8192) →
    (0 < s.stage.size ∧ s.stage.size % g = 0 → ∃ c : Memory,
      exec (.setrule fam.tag) s = .next { s with
        family := fam, rom := s.stage, x0 := 0x00, x1 := 0x01
        x2 := (if fam = .codemasters then 0x00 else 0x02), ctrl := 0x00, cram := c
        response := some (resp .ok 0x00 0) } ∧
      ∀ n, c.read n = 0x00) ∧
    (¬ (0 < s.stage.size ∧ s.stage.size % g = 0) →
      exec (.setrule fam.tag) s = .next { s with response := some (resp .unsupportedImage 0x00 0) })

/-- R197: GETRULE returns the tag of `FAMILY` and changes nothing. -/
def Obligations.GetruleReturnsTheFamilyTag : Prop :=
  (∀ (a : Num24) (p : BitVec 16) (d : Byte) (q : ByteSeq), decodeWord (mkWord 0x14 a p d) q = .ok .getrule) ∧
  commandPort 0x14 = .host ∧
  ∀ s : State, exec .getrule s = .next { s with response := some (resp .ok s.family.tag 0) }

/-! ### Direct access, introspection, cheats -/

/-- R210: RETRIEVE returns `MAP[a]` at every address, whatever the family, and changes nothing. -/
def Obligations.RetrieveReturnsTheMapByte : Prop :=
  (∀ (a : Addr) (p : BitVec 16) (d : Byte) (q : ByteSeq),
    decodeWord (mkWord 0x20 (0x00#8 ++ a) p d) q = .ok (.retrieve a)) ∧
  commandPort 0x20 = .host ∧
  ∀ (s : State) (a : Addr),
    exec (.retrieve a) s = .next { s with response := some (resp .ok (s.map.read a.toNat) 0) }

/-- R211: LOAD changes one byte of `MAP`, at any address, and nothing else. -/
def Obligations.LoadStoresOneMapByte : Prop :=
  (∀ (a : Addr) (p : BitVec 16) (d : Byte) (q : ByteSeq),
    decodeWord (mkWord 0x21 (0x00#8 ++ a) p d) q = .ok (.load a d)) ∧
  commandPort 0x21 = .host ∧
  ∀ (s : State) (a : Addr) (v : Byte), ∃ m : Memory,
    exec (.load a v) s = .next { s with map := m, response := some (resp .ok 0x00 0) } ∧
    ∀ b, m.read b = if b = a.toNat then v else s.map.read b

/-- R212: ROMBANK, window 3 before the missing rule. -/
def Obligations.RombankReturnsTheWindowOffset : Prop :=
  (∀ (a : Num24) (p : BitVec 16) (d : Byte) (q : ByteSeq),
    decodeWord (mkWord 0x50 a p d) q = .ok (.rombank (BitVec.ofNat 2 d.toNat))) ∧
  commandPort 0x50 = .host ∧
  ∀ (s : State) (w : BitVec 2), exec (.rombank w) s = .next { s with response := some (
    if w.toNat = 3 then resp .ignored 0x00 0
    else if s.family = .noRule then resp .noRule 0x00 0
    else if s.family = .romOnly ∨ s.family = .sg1000 then
      resp .ok 0x00 (BitVec.ofNat 24 (w.toNat * 16384 % s.rom.size))
    else resp .ok 0x00 (BitVec.ofNat 24
      ((if w.toNat = 0 then s.x0 else if w.toNat = 1 then s.x1 else s.x2).toNat % (s.rom.size / 16384) * 16384))) }

/-- R213: RAMBANK. -/
def Obligations.RambankReturnsTheRamBank : Prop :=
  (∀ (a : Num24) (p : BitVec 16) (d : Byte) (q : ByteSeq), decodeWord (mkWord 0x51 a p d) q = .ok .rambank) ∧
  commandPort 0x51 = .host ∧
  ∀ s : State, exec .rambank s = .next { s with response := some (
    if s.family = .sega then
      resp .ok (if s.ctrl.getLsbD 3 then 0x01 else 0x00) (if s.ctrl.getLsbD 2 then 16384 else 0)
    else resp .ok 0x00 0) }

/-- R214: PEEKROM. -/
def Obligations.PeekromReturnsTheImageByte : Prop :=
  (∀ (n : Num24) (p : BitVec 16) (d : Byte) (q : ByteSeq),
    decodeWord (mkWord 0x52 n p d) q = .ok (.peekrom n)) ∧
  commandPort 0x52 = .host ∧
  ∀ (s : State) (n : Num24),
    (n.toNat < s.rom.size →
      exec (.peekrom n) s = .next { s with response := some (resp .ok (s.rom.get n.toNat) 0) }) ∧
    (s.rom.size ≤ n.toNat → exec (.peekrom n) s = .next { s with response := some (resp .ignored 0xFF 0) })

/-- R215, R216: PEEKCRAM and POKECRAM, whatever `CTRL` says; without effect outside the Sega family and from
offset 32768 on. -/
def Obligations.PeekcramAndPokecram : Prop :=
  (∀ (n : Num24) (p : BitVec 16) (d : Byte) (q : ByteSeq),
    decodeWord (mkWord 0x53 n p d) q = .ok (.peekcram n) ∧
    decodeWord (mkWord 0x54 n p d) q = .ok (.pokecram n d)) ∧
  commandPort 0x53 = .host ∧ commandPort 0x54 = .host ∧
  ∀ (s : State) (n : Num24) (v : Byte),
    (s.family = .sega ∧ n.toNat < 32768 →
      exec (.peekcram n) s = .next { s with response := some (resp .ok (s.cram.read n.toNat) 0) } ∧
      ∃ c : Memory,
        exec (.pokecram n v) s = .next { s with cram := c, response := some (resp .ok 0x00 0) } ∧
        ∀ k, c.read k = if k = n.toNat then v else s.cram.read k) ∧
    (¬ (s.family = .sega ∧ n.toNat < 32768) →
      exec (.peekcram n) s = .next { s with response := some (resp .ignored 0xFF 0) } ∧
      exec (.pokecram n v) s = .next { s with response := some (resp .ignored 0x00 0) })

/-! ### State serialization -/

/-- R226, R227: STATESIZE returns the length of the family's record and changes nothing. -/
def Obligations.StatesizeReturnsTheRecordLength : Prop :=
  (∀ (a : Num24) (p : BitVec 16) (d : Byte) (q : ByteSeq),
    decodeWord (mkWord 0x30 a p d) q = .ok .statesize) ∧
  commandPort 0x30 = .host ∧
  ∀ s : State, exec .statesize s = .next { s with response := some (resp .ok 0x00
      (if s.family = .sega then 98309 else if s.family = .codemasters then 65540
        else if s.family = .korean then 65538 else 65537)) } ∧
    stateSize s.family = (if s.family = .sega then 98309 else if s.family = .codemasters then 65540
      else if s.family = .korean then 65538 else 65537)

/-- R225, R228, R229: the stream of SAVESTATE, byte by byte; too small a buffer streams nothing. No state changes. -/
def Obligations.SavestateStreamsTheRecord : Prop :=
  (∀ (n : Num24) (p : BitVec 16) (d : Byte) (q : ByteSeq),
    decodeWord (mkWord 0x31 n p d) q = .ok (.savestate n)) ∧
  commandPort 0x31 = .host ∧
  ∀ (s : State) (n : Num24),
    (n.toNat < stateSize s.family → exec (.savestate n) s = .next { s with
      response := some (resp .bufferTooSmall 0x00 (BitVec.ofNat 24 (stateSize s.family))) }) ∧
    (stateSize s.family ≤ n.toNat → ∃ q : ByteSeq,
      exec (.savestate n) s = .next { s with
        response := some ⟨.ok, 0x00, BitVec.ofNat 24 (stateSize s.family), q⟩ } ∧
      q.size = stateSize s.family ∧
      (∀ a < 65536, q.get a = s.map.read a) ∧ q.get 65536 = s.family.tag ∧
      (s.family = .korean → q.get 65537 = s.x2) ∧
      (s.family = .codemasters ∨ s.family = .sega →
        q.get 65537 = s.x0 ∧ q.get 65538 = s.x1 ∧ q.get 65539 = s.x2) ∧
      (s.family = .sega → q.get 65540 = s.ctrl ∧ ∀ c < 32768, q.get (65541 + c) = s.cram.read c))

/-- R230, R231, R234: an acceptable record is restored into `MAP` and the family's registers (and `CRAM`), and
nothing else changes. -/
def Obligations.LoadstateRestoresTheRecord : Prop :=
  (∀ (n : Num24) (p : BitVec 16) (d : Byte) (q : ByteSeq),
    decodeWord (mkWord 0x32 n p d) q = .ok (.loadstate n q)) ∧
  commandPort 0x32 = .host ∧
  ∀ (s : State) (n : Num24) (q : ByteSeq), q.wf = true →
    q.size = n.toNat → n.toNat = stateSize s.family → q.get 65536 = s.family.tag → ∃ m c y0 y1 y2 k,
      exec (.loadstate n q) s = .next { s with
        map := m, cram := c, x0 := y0, x1 := y1, x2 := y2, ctrl := k, response := some (resp .ok 0x00 0) } ∧
      (∀ a < 65536, m.read a = q.get a) ∧
      (s.family = .sega → ∀ i < 32768, c.read i = q.get (65541 + i)) ∧ (s.family ≠ .sega → c = s.cram) ∧
      k = (if s.family = .sega then q.get 65540 else s.ctrl) ∧
      y0 = (if s.family = .sega ∨ s.family = .codemasters then q.get 65537 else s.x0) ∧
      y1 = (if s.family = .sega ∨ s.family = .codemasters then q.get 65538 else s.x1) ∧
      y2 = (if s.family = .sega ∨ s.family = .codemasters then q.get 65539
        else if s.family = .korean then q.get 65537 else s.x2)

/-- R231, R232, R233: what a failed LOADSTATE leaves alone. Of the elements of the record nothing is said: they hold
free values (log entry 8). A payload of another length than announced is refused (R304 (d)). -/
def Obligations.FailedLoadstateTouchesOnlyTheRecord : Prop :=
  ∀ (s : State) (n : Num24) (q : ByteSeq), q.wf = true →
    (q.size = n.toNat → ¬ (n.toNat = stateSize s.family ∧ q.get 65536 = s.family.tag) →
      ∃ m c y0 y1 y2 k d,
        exec (.loadstate n q) s = .next { s with
          map := m, cram := c, x0 := y0, x1 := y1, x2 := y2, ctrl := k, draws := d
          response := some (resp .stateMismatch 0x00 0) } ∧
        m.wf 65536 = true ∧ (s.cram.wf 32768 = true → c.wf 32768 = true) ∧
        (s.family ≠ .sega → c = s.cram ∧ k = s.ctrl) ∧
        (s.family ≠ .sega → s.family ≠ .codemasters → y0 = s.x0 ∧ y1 = s.x1) ∧
        (s.family ≠ .sega → s.family ≠ .codemasters → s.family ≠ .korean → y2 = s.x2)) ∧
    (q.size ≠ n.toNat → exec (.loadstate n q) s = .refused .streamLength)

/-- R235: the record saved in `s` and restored in any state `t` with the same family and image gives back `MAP`, the
registers and `CRAM`, and every READ returns what it returned in `s`. The invariant is what R235 asks of both
states: they are reachable. -/
def Obligations.SaveThenLoadRoundTrip : Prop :=
  ∀ (s t : State) (n : Num24), s.Inv → t.Inv → t.family = s.family → t.rom = s.rom →
    stateSize s.family ≤ n.toNat → ∃ s' q u,
      exec (.savestate n) s = .next s' ∧
      s'.response = some ⟨.ok, 0x00, BitVec.ofNat 24 (stateSize s.family), q⟩ ∧
      exec (.loadstate (BitVec.ofNat 24 (stateSize s.family)) q) t = .next u ∧
      u.response = some (resp .ok 0x00 0) ∧
      u.map = s.map ∧ u.x0 = s.x0 ∧ u.x1 = s.x1 ∧ u.x2 = s.x2 ∧ u.ctrl = s.ctrl ∧ u.cram = s.cram ∧
      (∀ a, u.memRead a = s.memRead a)

/-! ### Debug -/

/-- R245: BPADD, its three checks in order; only `BP` changes. -/
def Obligations.BpaddAppendsOneEntry : Prop :=
  (∀ (a : Num24) (p : BitVec 16) (d : Byte) (q : ByteSeq),
    decodeWord (mkWord 0x40 a p d) q =
      .ok (.bpadd a (if p.getLsbD 8 then some (BitVec.ofNat 8 p.toNat) else none))) ∧
  commandPort 0x40 = .host ∧
  ∀ (s : State) (a : Num24) (q : Option Byte),
    (0xFFFF < a.toNat → exec (.bpadd a q) s = .next { s with response := some (resp .ignored 0x00 0) }) ∧
    (a.toNat ≤ 0xFFFF → ⟨BitVec.ofNat 16 a.toNat, q⟩ ∈ s.bp →
      exec (.bpadd a q) s = .next { s with response := some (resp .ok 0x00 0) }) ∧
    (a.toNat ≤ 0xFFFF → ⟨BitVec.ofNat 16 a.toNat, q⟩ ∉ s.bp → s.bp.length = Config.bpMax →
      exec (.bpadd a q) s = .next { s with response := some (resp .ignored 0x00 0) }) ∧
    (a.toNat ≤ 0xFFFF → ⟨BitVec.ofNat 16 a.toNat, q⟩ ∉ s.bp → s.bp.length ≠ Config.bpMax →
      exec (.bpadd a q) s = .next { s with
        bp := s.bp ++ [⟨BitVec.ofNat 16 a.toNat, q⟩], response := some (resp .ok 0x00 0) })

/-- R246: BPREMOVE removes the entry and keeps the order of the others; absent or out of range it changes nothing. -/
def Obligations.BpremoveRemovesOneEntry : Prop :=
  (∀ (a : Num24) (p : BitVec 16) (d : Byte) (q : ByteSeq),
    decodeWord (mkWord 0x41 a p d) q =
      .ok (.bpremove a (if p.getLsbD 8 then some (BitVec.ofNat 8 p.toNat) else none))) ∧
  commandPort 0x41 = .host ∧
  ∀ (s : State) (a : Num24) (q : Option Byte),
    (0xFFFF < a.toNat → exec (.bpremove a q) s = .next { s with response := some (resp .ignored 0x00 0) }) ∧
    (a.toNat ≤ 0xFFFF → ⟨BitVec.ofNat 16 a.toNat, q⟩ ∉ s.bp →
      exec (.bpremove a q) s = .next { s with response := some (resp .ignored 0x00 0) }) ∧
    (∀ l r, a.toNat ≤ 0xFFFF → s.bp.Nodup → s.bp = l ++ ⟨BitVec.ofNat 16 a.toNat, q⟩ :: r →
      exec (.bpremove a q) s = .next { s with bp := l ++ r, response := some (resp .ok 0x00 0) })

/-- R247, R248: BPCOUNT and BPLIST; no state changes. Of the `RVAL` of a count of 2^24 or more, which the spec does
not state, nothing is said: it is a free value (log entry 15). -/
def Obligations.BpcountAndBplistReportTheList : Prop :=
  (∀ (a : Num24) (p : BitVec 16) (d : Byte) (q : ByteSeq),
    decodeWord (mkWord 0x42 a p d) q = .ok .bpcount ∧ decodeWord (mkWord 0x43 a p d) q = .ok (.bplist a)) ∧
  commandPort 0x42 = .host ∧ commandPort 0x43 = .host ∧
  ∀ (s : State) (i : Num24),
    (∃ v : Num24, exec .bpcount s = .next { s with response := some (resp .ok 0x00 v) } ∧
      (s.bp.length < 2 ^ 24 → v.toNat = s.bp.length)) ∧
    (s.bp.length ≤ i.toNat →
      exec (.bplist i) s = .next { s with response := some (resp .ignored 0x00 0) }) ∧
    (∀ h : i.toNat < s.bp.length, exec (.bplist i) s = .next { s with response := some (resp .ok
      ((s.bp[i.toNat]'h).qual.getD 0x00)
      (BitVec.ofNat 24 ((if (s.bp[i.toNat]'h).qual.isSome then 65536 else 0) + (s.bp[i.toNat]'h).addr.toNat))) })

/-- R249, R250: RUNTOSET and RUNTOCLEAR. -/
def Obligations.RuntosetAndRuntoclear : Prop :=
  (∀ (a : Num24) (p : BitVec 16) (d : Byte) (q : ByteSeq),
    decodeWord (mkWord 0x44 a p d) q =
      .ok (.runtoset a (if p.getLsbD 8 then some (BitVec.ofNat 8 p.toNat) else none)) ∧
    decodeWord (mkWord 0x45 a p d) q = .ok .runtoclear) ∧
  commandPort 0x44 = .host ∧ commandPort 0x45 = .host ∧
  ∀ (s : State) (a : Num24) (q : Option Byte),
    (0xFFFF < a.toNat → exec (.runtoset a q) s = .next { s with response := some (resp .ignored 0x00 0) }) ∧
    (a.toNat ≤ 0xFFFF → exec (.runtoset a q) s = .next { s with
      runtoValid := true, runtoAddr := BitVec.ofNat 16 a.toNat, runtoQual := q, runtoHit := false
      response := some (resp .ok 0x00 0) }) ∧
    exec .runtoclear s = .next { s with
      runtoValid := false, runtoHit := false, response := some (resp .ok 0x00 0) }

/-- R251: GETRUNTO reports the target and the hit, and clears both when it reports a hit. -/
def Obligations.GetruntoReportsAndClearsTheHit : Prop :=
  (∀ (a : Num24) (p : BitVec 16) (d : Byte) (q : ByteSeq), decodeWord (mkWord 0x46 a p d) q = .ok .getrunto) ∧
  commandPort 0x46 = .host ∧
  ∀ s : State, exec .getrunto s = .next { s with
    runtoValid := (if s.runtoHit then false else s.runtoValid), runtoHit := false
    response := some (resp .ok (s.runtoQual.getD 0x00) (BitVec.ofNat 24
      ((if s.runtoHit then 262144 else 0) + (if s.runtoValid then 131072 else 0) +
        (if s.runtoQual.isSome then 65536 else 0) + s.runtoAddr.toNat))) }

/-- R252, R253: exactly when a READ or a WRITE leaves `RUNTO_HIT` set, from the state before the access, and that it
leaves the target armed; the six commands that R252 names as making no run-to check leave every debug register
alone. -/
def Obligations.RunToHitExactlyOnAMatch : Prop :=
  ∀ (s : State) (a : Addr) (p : BitVec 16) (v : Byte) (n : Num24) (q : ByteSeq),
    (∃ t u, exec (.read a p) s = .next t ∧ exec (.write a p v) s = .next u ∧
      u.runtoHit = t.runtoHit ∧
      t.runtoValid = s.runtoValid ∧ t.runtoAddr = s.runtoAddr ∧ t.runtoQual = s.runtoQual ∧
      u.runtoValid = s.runtoValid ∧ u.runtoAddr = s.runtoAddr ∧ u.runtoQual = s.runtoQual ∧
      (t.runtoHit = true ↔ s.runtoHit = true ∨ (s.runtoValid = true ∧ a = s.runtoAddr ∧
        (s.runtoQual = none ∨
          ∃ b c, s.runtoQual = some b ∧ s.resolve a = .romCell c ∧ c / 16384 = b.toNat)))) ∧
    (∀ i ∈ [Instr.retrieve a, .load a v, .peekrom n, .peekcram n, .pokecram n v, .loadstate n q],
      ∀ t, exec i s = .next t → t.SameDebug s)

/-- R255, first half: no debug command changes an element that a READ can depend on. -/
def Obligations.DebugCommandsKeepTheMachine : Prop :=
  ∀ (s t : State) (r : Request) (rest : List Request), s.inbox = r :: rest → step s = .next t →
    0x40 ≤ (cmdField r.word).toNat → (cmdField r.word).toNat ≤ 0x46 → s.SameMachine t

/-- R255, second half, for whole runs: two states that differ only in the debug registers go through any command
that is not a debug command alike. The next states again differ only there, and the responses, which hold every
byte that is read, streamed or reported, are equal. Through a failed LOADSTATE this is the model's choice, log
entry 8: the free values left behind are a function of the counter `draws`, of the cell's index, its old byte and the
byte sent, which are the same in both runs; R232 promises no such relation between two runs. -/
def Obligations.DebugStateNeverInfluencesTheMachine : Prop :=
  ∀ (s s' t : State) (r : Request) (rest : List Request),
    s.inbox = r :: rest → s'.inbox = s.inbox → s.SameMachine s' → s'.initialised = s.initialised →
    s'.draws = s.draws → ((cmdField r.word).toNat < 0x40 ∨ 0x46 < (cmdField r.word).toNat) →
    step s = .next t → ∃ t', step s' = .next t' ∧ t.SameMachine t' ∧ t'.response = t.response ∧
      t'.inbox = t.inbox ∧ t'.initialised = t.initialised ∧ t'.draws = t.draws

/-! ### The whole machine -/

/-- R33 (b) to (i), with the canonical form of every memory: every step keeps it, from every state that has it. -/
def Obligations.EveryStepKeepsTheInvariant : Prop :=
  ∀ s t : State, s.Inv → step s = .next t → t.Inv

/-- The state after reset has the invariant. -/
def Obligations.ResetHasTheInvariant : Prop := State.reset.Inv

/-- R20, R21 to R24: a command changes an element of the state only if it is one of the element's writers. -/
def Obligations.EveryElementHasOnlyItsWriters : Prop :=
  ∀ (s t : State) (r : Request) (rest : List Request), s.inbox = r :: rest → step s = .next t →
    (t.map ≠ s.map → cmdField r.word ∈ ([0x01, 0x21, 0x10, 0x11, 0x32] : List Byte)) ∧
    (t.family ≠ s.family → cmdField r.word ∈ ([0x13, 0x10] : List Byte)) ∧
    (t.rom ≠ s.rom → cmdField r.word ∈ ([0x13, 0x10] : List Byte)) ∧
    (t.stage ≠ s.stage → cmdField r.word ∈ ([0x12, 0x10] : List Byte)) ∧
    (t.x0 ≠ s.x0 ∨ t.x1 ≠ s.x1 ∨ t.x2 ≠ s.x2 ∨ t.ctrl ≠ s.ctrl →
      cmdField r.word ∈ ([0x01, 0x13, 0x11, 0x32, 0x10] : List Byte)) ∧
    (t.cram ≠ s.cram → cmdField r.word ∈ ([0x01, 0x54, 0x32, 0x13, 0x10] : List Byte)) ∧
    (t.bp ≠ s.bp → cmdField r.word ∈ ([0x40, 0x41, 0x10] : List Byte)) ∧
    (t.runtoValid ≠ s.runtoValid → cmdField r.word ∈ ([0x44, 0x45, 0x46, 0x10] : List Byte)) ∧
    (t.runtoAddr ≠ s.runtoAddr ∨ t.runtoQual ≠ s.runtoQual → cmdField r.word ∈ ([0x44, 0x10] : List Byte)) ∧
    (t.runtoHit = true → s.runtoHit = false → cmdField r.word ∈ ([0x00, 0x01] : List Byte)) ∧
    (t.runtoHit = false → s.runtoHit = true →
      cmdField r.word ∈ ([0x46, 0x44, 0x45, 0x10] : List Byte))

/-- R186: in the Korean family no command but SETRULE and INIT changes what a READ of 0x0000–0x7FFF returns. The
invariant is needed: it says that windows 0 and 1 stand on banks 0 and 1, the values RESET gives them. -/
def Obligations.KoreanWindowsZeroAndOneAreFixed : Prop :=
  ∀ (s t : State) (r : Request) (rest : List Request) (a : Addr) (p : BitVec 16),
    s.Inv → s.inbox = r :: rest → step s = .next t → s.family = .korean →
    cmdField r.word ≠ 0x13 → cmdField r.word ≠ 0x10 → a.toNat < 0x8000 →
    ∃ b h h', exec (.read a p) s = .next { s with runtoHit := h, response := some (resp .ok b 0) } ∧
      exec (.read a p) t = .next { t with runtoHit := h', response := some (resp .ok b 0) }

/-- R199: the lifetime of the cartridge RAM. -/
def Obligations.CartridgeRamLifetime : Prop :=
  ∀ (s t : State) (r : Request) (rest : List Request) (q : Response),
    s.inbox = r :: rest → step s = .next t → t.response = some q →
    (cmdField r.word ∈ ([0x11, 0x00, 0x20, 0x21, 0x40, 0x41, 0x42, 0x43, 0x44, 0x45, 0x46] : List Byte) →
      t.cram = s.cram) ∧
    (cmdField r.word = 0x01 → (∀ c, s.resolve (BitVec.ofNat 16 (aField r.word).toNat) ≠ .cramCell c) →
      t.cram = s.cram) ∧
    (cmdField r.word = 0x32 → q.status = .ok → s.family = .sega →
      ∀ n < 32768, t.cram.read n = r.payload.get (65541 + n)) ∧
    (cmdField r.word = 0x13 → q.status = .ok → ∀ n, t.cram.read n = 0x00) ∧
    (cmdField r.word = 0x10 → ∀ n, t.cram.read n = 0x00)

end Statements
end

