-- ==== Sys2Proof/Laws/Bytes.lean ====
section
/-! SUPPORT. The laws of `Memory` and `ByteSeq`: what one byte reads as after each operation, that each
operation keeps the canonical form, and that two canonical memories with the same bytes are the same list. -/

namespace Sys2Proof

/-! ### Reading one byte -/

@[simp] theorem Memory.read_nil (a : Nat) : Memory.read [] a = Config.fill := rfl

theorem Memory.read_cons (k : Nat) (b : Byte) (rest : Memory) (a : Nat) :
    Memory.read ((k, b) :: rest) a = if k = a then b else Memory.read rest a := rfl

theorem Memory.read_erase (m : Memory) (a b : Nat) :
    (m.erase a).read b = if b = a then Config.fill else m.read b := by
  induction m with
  | nil => simp [Memory.erase]
  | cons c rest ih =>
    obtain ⟨k, v⟩ := c
    unfold Memory.erase at ih ⊢
    rw [List.filter_cons]
    by_cases hk : k = a
    · subst hk
      simp only [ne_eq, not_true_eq_false, decide_false, Bool.false_eq_true, if_false, ih, Memory.read_cons]
      by_cases hb : b = k
      · simp [hb]
      · simp [hb, Ne.symm hb]
    · simp only [ne_eq, hk, not_false_eq_true, decide_true, if_true, Memory.read_cons, ih]
      by_cases hb : b = a
      · subst hb; simp [hk]
      · simp [hb]

theorem Memory.read_insert (m : Memory) (a : Nat) (v : Byte) (b : Nat)
    (h : ∀ c ∈ m, c.1 ≠ a) : (m.insert a v).read b = if b = a then v else m.read b := by
  induction m with
  | nil => simp [Memory.insert, Memory.read_cons, eq_comm]
  | cons c rest ih =>
    obtain ⟨k, w⟩ := c
    have hk : k ≠ a := h (k, w) (by simp)
    have ih' := ih fun c hc => h c (by simp [hc])
    unfold Memory.insert
    split
    · rw [Memory.read_cons]
      by_cases hb : b = a
      · simp [hb]
      · simp [hb, Ne.symm hb]
    · rw [Memory.read_cons, Memory.read_cons, ih']
      by_cases hb : b = a
      · subst hb; simp [hk]
      · simp [hb]

/-- A write sets the byte at its address and leaves every other byte alone. -/
theorem Memory.read_write (m : Memory) (a : Nat) (v : Byte) (b : Nat) :
    (m.write a v).read b = if b = a then v else m.read b := by
  unfold Memory.write
  split
  · next hv => rw [Memory.read_erase, hv]
  · rw [Memory.read_insert _ _ _ _ (by simp [Memory.erase]), Memory.read_erase]
    split <;> simp_all

theorem Memory.read_append (m m' : Memory) (a : Nat) :
    Memory.read (m ++ m') a = if (∃ c ∈ m, c.1 = a) then m.read a else m'.read a := by
  induction m with
  | nil => simp
  | cons c rest ih =>
    obtain ⟨k, b⟩ := c
    rw [List.cons_append, Memory.read_cons, Memory.read_cons, ih]
    by_cases hk : k = a
    · simp [hk]
    · simp [hk]

theorem Memory.read_slice (m : Memory) (base len a : Nat) :
    (m.slice base len).read a = if a < len then m.read (base + a) else Config.fill := by
  induction m with
  | nil => simp [Memory.slice]
  | cons c rest ih =>
    obtain ⟨k, b⟩ := c
    unfold Memory.slice at ih ⊢
    rw [List.filterMap_cons]
    by_cases hk : base ≤ k ∧ k < base + len
    · simp only [hk, and_self, if_true, Memory.read_cons, ih]
      by_cases ha : a < len
      · simp only [ha, if_true]
        congr 1
        exact propext ⟨fun h => by omega, fun h => by omega⟩
      · simp only [ha, if_false]
        rw [if_neg (by omega)]
    · simp only [hk, if_false, ih, Memory.read_cons]
      by_cases ha : a < len
      · simp only [ha, if_true]
        rw [if_neg (by omega)]
      · simp [ha]

theorem Memory.read_shift (m : Memory) (base a : Nat) :
    (m.shift base).read a = if base ≤ a then m.read (a - base) else Config.fill := by
  induction m with
  | nil => simp [Memory.shift]
  | cons c rest ih =>
    obtain ⟨k, b⟩ := c
    unfold Memory.shift at ih ⊢
    rw [List.map_cons, Memory.read_cons, ih, Memory.read_cons]
    by_cases ha : base ≤ a
    · simp only [ha, if_true]
      congr 1
      exact propext ⟨fun h => by omega, fun h => by omega⟩
    · simp only [ha, if_false]
      rw [if_neg (by omega)]

theorem Memory.read_ofBytes (l : List Byte) (base a : Nat) :
    (Memory.ofBytes base l).read a = if base ≤ a then l.getD (a - base) Config.fill else Config.fill := by
  induction l generalizing base with
  | nil => simp [Memory.ofBytes]
  | cons b rest ih =>
    unfold Memory.ofBytes
    by_cases hab : a = base
    · subst hab
      split
      · next hb => rw [ih, if_neg (by omega)]; simp [hb]
      · simp [Memory.read_cons]
    · have key : (Memory.ofBytes (base + 1) rest).read a =
          if base ≤ a then (b :: rest).getD (a - base) Config.fill else Config.fill := by
        rw [ih]
        by_cases h : base ≤ a
        · rw [if_pos (by omega), if_pos h, show a - base = (a - (base + 1)) + 1 by omega, List.getD_cons_succ]
        · rw [if_neg (by omega), if_neg h]
      split
      · exact key
      · rw [Memory.read_cons, if_neg (Ne.symm hab), key]

theorem Memory.read_tabulate (n : Nat) (f : Nat → Byte) (a : Nat) :
    (Memory.tabulate n f).read a = if a < n then f a else Config.fill := by
  have go : ∀ (l : List Nat), Memory.read (l.filterMap fun a => if f a = Config.fill then none else some (a, f a)) a =
      if a ∈ l then f a else Config.fill := by
    intro l
    induction l with
    | nil => simp
    | cons k rest ih =>
      rw [List.filterMap_cons]
      by_cases hk : f k = Config.fill
      · simp only [hk, if_true, ih]
        by_cases hak : a = k
        · subst hak; simp [hk]
        · simp [hak]
      · simp only [hk, if_false, Memory.read_cons, ih]
        by_cases hak : k = a
        · subst hak; simp
        · simp [hak, Ne.symm hak]
  simpa [Memory.tabulate] using go (List.range n)

/-! ### The canonical form -/

theorem Memory.wfFrom_cons (k : Nat) (b : Byte) (rest : Memory) (lo hi : Nat) :
    Memory.wfFrom ((k, b) :: rest) lo hi = true ↔
      lo ≤ k ∧ k < hi ∧ b ≠ Config.fill ∧ Memory.wfFrom rest (k + 1) hi = true := by
  simp [Memory.wfFrom, and_assoc]

theorem Memory.wfFrom_mono {m : Memory} {lo hi lo' hi' : Nat} (h : m.wfFrom lo hi = true) (hl : lo' ≤ lo)
    (hh : hi ≤ hi') : m.wfFrom lo' hi' = true := by
  induction m generalizing lo lo' with
  | nil => rfl
  | cons c rest ih =>
    obtain ⟨k, b⟩ := c
    rw [Memory.wfFrom_cons] at h ⊢
    exact ⟨by omega, by omega, h.2.2.1, ih h.2.2.2 (Nat.le_refl _)⟩

theorem Memory.wfFrom_bounds {m : Memory} {lo hi : Nat} (h : m.wfFrom lo hi = true) :
    ∀ c ∈ m, lo ≤ c.1 ∧ c.1 < hi := by
  induction m generalizing lo with
  | nil => simp
  | cons c rest ih =>
    obtain ⟨k, b⟩ := c
    rw [Memory.wfFrom_cons] at h
    intro c hc
    rcases List.mem_cons.mp hc with rfl | hc
    · exact ⟨h.1, h.2.1⟩
    · have := ih h.2.2.2 c hc
      exact ⟨by omega, this.2⟩

theorem Memory.read_of_not_listed {m : Memory} {a : Nat} (h : ∀ c ∈ m, c.1 ≠ a) : m.read a = Config.fill := by
  induction m with
  | nil => rfl
  | cons c rest ih =>
    obtain ⟨k, b⟩ := c
    rw [Memory.read_cons, if_neg (h (k, b) (by simp)), ih fun c hc => h c (by simp [hc])]

theorem Memory.read_below {m : Memory} {lo hi a : Nat} (h : m.wfFrom lo hi = true) (ha : a < lo) :
    m.read a = Config.fill :=
  Memory.read_of_not_listed fun c hc => by have := Memory.wfFrom_bounds h c hc; omega

theorem Memory.read_above {m : Memory} {lo hi a : Nat} (h : m.wfFrom lo hi = true) (ha : hi ≤ a) :
    m.read a = Config.fill :=
  Memory.read_of_not_listed fun c hc => by have := Memory.wfFrom_bounds h c hc; omega

/-- Two canonical memories that read alike are the same list. -/
theorem Memory.wfFrom_ext {m m' : Memory} {lo hi hi' : Nat} (h : m.wfFrom lo hi = true)
    (h' : m'.wfFrom lo hi' = true) (hr : ∀ a, m.read a = m'.read a) : m = m' := by
  induction m generalizing lo m' with
  | nil =>
    cases m' with
    | nil => rfl
    | cons c rest =>
      obtain ⟨k, b⟩ := c
      rw [Memory.wfFrom_cons] at h'
      exact absurd (by simpa [Memory.read_cons] using (hr k).symm) h'.2.2.1
  | cons c rest ih =>
    obtain ⟨k, b⟩ := c
    have hw := (Memory.wfFrom_cons ..).mp h
    cases m' with
    | nil => exact absurd (by simpa [Memory.read_cons] using hr k) hw.2.2.1
    | cons c' rest' =>
      obtain ⟨k', b'⟩ := c'
      have hw' := (Memory.wfFrom_cons ..).mp h'
      have hkk : k = k' := by
        rcases Nat.lt_trichotomy k k' with hlt | heq | hgt
        · have e := hr k
          rw [Memory.read_cons, if_pos rfl, Memory.read_cons, if_neg (by omega),
            Memory.read_below hw'.2.2.2 (by omega)] at e
          exact absurd e hw.2.2.1
        · exact heq
        · have e := hr k'
          rw [Memory.read_cons, if_neg (by omega), Memory.read_below hw.2.2.2 (by omega), Memory.read_cons,
            if_pos rfl] at e
          exact absurd e.symm hw'.2.2.1
      subst hkk
      have hb : b = b' := by simpa [Memory.read_cons] using hr k
      subst hb
      congr 1
      refine ih hw.2.2.2 hw'.2.2.2 fun a => ?_
      by_cases hka : k = a
      · subst hka
        rw [Memory.read_below hw.2.2.2 (by omega), Memory.read_below hw'.2.2.2 (by omega)]
      · simpa [Memory.read_cons, hka] using hr a

theorem Memory.wf_ext {m m' : Memory} {n n' : Nat} (h : m.wf n = true) (h' : m'.wf n' = true)
    (hr : ∀ a, m.read a = m'.read a) : m = m' :=
  Memory.wfFrom_ext h h' hr

@[simp] theorem Memory.wf_nil (n : Nat) : Memory.wf [] n = true := rfl

theorem Memory.wfFrom_erase {m : Memory} {lo hi : Nat} (a : Nat) (h : m.wfFrom lo hi = true) :
    (m.erase a).wfFrom lo hi = true := by
  induction m generalizing lo with
  | nil => rfl
  | cons c rest ih =>
    obtain ⟨k, b⟩ := c
    have hw := (Memory.wfFrom_cons ..).mp h
    have := ih hw.2.2.2
    unfold Memory.erase at this ⊢
    rw [List.filter_cons]
    split
    · exact (Memory.wfFrom_cons ..).mpr ⟨hw.1, hw.2.1, hw.2.2.1, this⟩
    · exact Memory.wfFrom_mono this (by omega) (Nat.le_refl _)

theorem Memory.wfFrom_insert {m : Memory} {lo hi a : Nat} {v : Byte} (h : m.wfFrom lo hi = true)
    (ha : ∀ c ∈ m, c.1 ≠ a) (hl : lo ≤ a) (hh : a < hi) (hv : v ≠ Config.fill) :
    (m.insert a v).wfFrom lo hi = true := by
  induction m generalizing lo with
  | nil => exact (Memory.wfFrom_cons ..).mpr ⟨hl, hh, hv, rfl⟩
  | cons c rest ih =>
    obtain ⟨k, b⟩ := c
    have hw := (Memory.wfFrom_cons ..).mp h
    have hk : k ≠ a := ha (k, b) (by simp)
    unfold Memory.insert
    split
    · exact (Memory.wfFrom_cons ..).mpr ⟨hl, hh, hv, (Memory.wfFrom_cons ..).mpr ⟨by omega, hw.2⟩⟩
    · exact (Memory.wfFrom_cons ..).mpr
        ⟨hw.1, hw.2.1, hw.2.2.1, ih hw.2.2.2 (fun c hc => ha c (by simp [hc])) (by omega)⟩

/-- A write inside the memory keeps the canonical form. -/
theorem Memory.wf_write {m : Memory} {n : Nat} (a : Nat) (v : Byte) (h : m.wf n = true) (ha : a < n) :
    (m.write a v).wf n = true := by
  unfold Memory.write
  split
  · exact Memory.wfFrom_erase a h
  · next hv =>
    exact Memory.wfFrom_insert (Memory.wfFrom_erase a h) (by simp [Memory.erase]) (Nat.zero_le _) ha hv

theorem Memory.wfFrom_slice {m : Memory} {lo hi : Nat} (base len : Nat) (h : m.wfFrom lo hi = true) :
    (m.slice base len).wfFrom (lo - base) len = true := by
  induction m generalizing lo with
  | nil => rfl
  | cons c rest ih =>
    obtain ⟨k, b⟩ := c
    have hw := (Memory.wfFrom_cons ..).mp h
    have := ih hw.2.2.2
    unfold Memory.slice at this ⊢
    rw [List.filterMap_cons]
    by_cases hk : base ≤ k ∧ k < base + len
    · simp only [hk, and_self, if_true]
      exact (Memory.wfFrom_cons ..).mpr
        ⟨by omega, by omega, hw.2.2.1, Memory.wfFrom_mono this (by omega) (Nat.le_refl _)⟩
    · simp only [hk, if_false]
      exact Memory.wfFrom_mono this (by omega) (Nat.le_refl _)

/-- A slice of a canonical memory is canonical. -/
theorem Memory.wf_slice {m : Memory} {n : Nat} (base len : Nat) (h : m.wf n = true) :
    (m.slice base len).wf len = true :=
  Memory.wfFrom_mono (Memory.wfFrom_slice base len h) (by omega) (Nat.le_refl _)

theorem Memory.wfFrom_shift {m : Memory} {lo hi : Nat} (base : Nat) (h : m.wfFrom lo hi = true) :
    (m.shift base).wfFrom (base + lo) (base + hi) = true := by
  induction m generalizing lo with
  | nil => rfl
  | cons c rest ih =>
    obtain ⟨k, b⟩ := c
    have hw := (Memory.wfFrom_cons ..).mp h
    have := ih hw.2.2.2
    unfold Memory.shift at this ⊢
    rw [List.map_cons]
    exact (Memory.wfFrom_cons ..).mpr
      ⟨by omega, by omega, hw.2.2.1, Memory.wfFrom_mono this (by omega) (Nat.le_refl _)⟩

theorem Memory.wfFrom_ofBytes (l : List Byte) (base : Nat) :
    (Memory.ofBytes base l).wfFrom base (base + l.length) = true := by
  induction l generalizing base with
  | nil => rfl
  | cons b rest ih =>
    have h := ih (base + 1)
    unfold Memory.ofBytes
    rw [List.length_cons]
    split
    · exact Memory.wfFrom_mono h (by omega) (by omega)
    · next hb =>
      exact (Memory.wfFrom_cons ..).mpr
        ⟨Nat.le_refl _, by omega, hb, Memory.wfFrom_mono h (Nat.le_refl _) (by omega)⟩

theorem Memory.wfFrom_append {m m' : Memory} {lo mid hi : Nat} (h : m.wfFrom lo mid = true)
    (h' : m'.wfFrom mid hi = true) (hm : lo ≤ mid) (hh : mid ≤ hi) : (m ++ m').wfFrom lo hi = true := by
  induction m generalizing lo with
  | nil => exact Memory.wfFrom_mono h' hm (Nat.le_refl _)
  | cons c rest ih =>
    obtain ⟨k, b⟩ := c
    have hw := (Memory.wfFrom_cons ..).mp h
    rw [List.cons_append]
    exact (Memory.wfFrom_cons ..).mpr ⟨hw.1, by omega, hw.2.2.1, ih hw.2.2.2 (by omega)⟩

/-- A tabulated memory is canonical. -/
theorem Memory.wf_tabulate (n : Nat) (f : Nat → Byte) : (Memory.tabulate n f).wf n = true := by
  have go : ∀ k lo, k + lo = n → Memory.wfFrom ((List.range' lo k).filterMap fun a =>
      if f a = Config.fill then none else some (a, f a)) lo n = true := by
    intro k
    induction k with
    | zero => intro lo _; rfl
    | succ k ih =>
      intro lo hlo
      have hrest := ih (lo + 1) (by omega)
      rw [List.range'_succ, List.filterMap_cons]
      by_cases hf : f lo = Config.fill
      · simp only [hf, if_true]
        exact Memory.wfFrom_mono hrest (by omega) (Nat.le_refl _)
      · simp only [hf, if_false]
        exact (Memory.wfFrom_cons ..).mpr ⟨Nat.le_refl _, by omega, hf, hrest⟩
  simpa [Memory.tabulate, Memory.wf, List.range_eq_range'] using go n 0 rfl

/-! ### Byte sequences -/

theorem ByteSeq.wf_ofList (l : List Byte) : (ByteSeq.ofList l).wf = true := by
  simpa [ByteSeq.wf, ByteSeq.ofList, Memory.wf] using Memory.wfFrom_ofBytes l 0

theorem ByteSeq.get_ofList (l : List Byte) (i : Nat) : (ByteSeq.ofList l).get i = l.getD i Config.fill := by
  simp [ByteSeq.get, ByteSeq.ofList, Memory.read_ofBytes]

/-- Two canonical sequences of one length with the same bytes are equal. -/
theorem ByteSeq.wf_ext {q r : ByteSeq} (h : q.wf = true) (h' : r.wf = true) (hs : q.size = r.size)
    (hg : ∀ i, q.get i = r.get i) : q = r := by
  obtain ⟨n, m⟩ := q
  obtain ⟨n', m'⟩ := r
  simp only at hs
  subst hs
  exact congrArg (ByteSeq.mk n) (Memory.wf_ext h h' hg)

theorem ByteSeq.toList_ofList (l : List Byte) : (ByteSeq.ofList l).toList = l := by
  apply List.ext_getElem
  · simp [ByteSeq.toList, ByteSeq.ofList]
  · intro i h₁ h₂
    simp [ByteSeq.toList, ByteSeq.get_ofList, List.getElem?_eq_getElem h₂]

theorem ByteSeq.ofList_toList {q : ByteSeq} (h : q.wf = true) : ByteSeq.ofList q.toList = q := by
  refine ByteSeq.wf_ext (ByteSeq.wf_ofList _) h (by simp [ByteSeq.ofList, ByteSeq.toList]) fun i => ?_
  rw [ByteSeq.get_ofList]
  by_cases hi : i < q.size
  · simp [ByteSeq.toList, List.getD_eq_getElem?_getD, hi]
  · rw [List.getD_eq_default _ _ (by simpa [ByteSeq.toList] using hi), ByteSeq.get,
      Memory.read_above h (by omega)]

@[simp] theorem ByteSeq.wf_zeros (n : Nat) : (ByteSeq.zeros n).wf = true := rfl

@[simp] theorem ByteSeq.wf_empty : ByteSeq.empty.wf = true := rfl

theorem payloadOk_iff (n : Num24) (q : ByteSeq) :
    payloadOk n q = true ↔ q.size = n.toNat ∧ q.wf = true := by
  simp [payloadOk]

end Sys2Proof
end

