-- ==== Sys2Proof/Laws/Decode.lean ====
section
/-! SUPPORT. The laws of the decoders: the fields of a command word made from its fields, and which
address-decode row each family selects for each address. -/

set_option linter.unusedSimpArgs false

namespace Sys2Proof

/-! ### Fields of a command word -/

@[simp] theorem cmdField_mkWord (c : Byte) (a : Num24) (p : BitVec 16) (d : Byte) :
    cmdField (mkWord c a p d) = c := by
  refine BitVec.eq_of_getLsbD_eq fun i hi => ?_
  simp only [cmdField, mkWord, BitVec.getLsbD_extractLsb', BitVec.getLsbD_append]
  rw [if_neg (by omega), if_neg (by omega), if_neg (by omega), show 48 + i - 8 - 16 - 24 = i by omega]
  simp [hi]

@[simp] theorem aField_mkWord (c : Byte) (a : Num24) (p : BitVec 16) (d : Byte) :
    aField (mkWord c a p d) = a := by
  refine BitVec.eq_of_getLsbD_eq fun i hi => ?_
  simp only [aField, mkWord, BitVec.getLsbD_extractLsb', BitVec.getLsbD_append]
  rw [if_neg (by omega), if_neg (by omega), if_pos (by omega), show 24 + i - 8 - 16 = i by omega]
  simp [hi]

@[simp] theorem pField_mkWord (c : Byte) (a : Num24) (p : BitVec 16) (d : Byte) :
    pField (mkWord c a p d) = p := by
  refine BitVec.eq_of_getLsbD_eq fun i hi => ?_
  simp only [pField, mkWord, BitVec.getLsbD_extractLsb', BitVec.getLsbD_append]
  rw [if_neg (by omega), if_pos (by omega), show 8 + i - 8 = i by omega]
  simp [hi]

@[simp] theorem dField_mkWord (c : Byte) (a : Num24) (p : BitVec 16) (d : Byte) :
    dField (mkWord c a p d) = d := by
  refine BitVec.eq_of_getLsbD_eq fun i hi => ?_
  simp only [dField, mkWord, BitVec.getLsbD_extractLsb', BitVec.getLsbD_append]
  rw [if_pos (by omega), show 0 + i = i by omega]
  simp [hi]

@[simp] theorem qualOf_qualField (q : Option Byte) : qualOf (qualField q) = q := by
  cases q with
  | none => rfl
  | some b =>
    have h : (0x01#8 ++ b).getLsbD 8 = true := by
      rw [BitVec.getLsbD_append, if_neg (by omega)]
      rfl
    have e : (0x01#8 ++ b).extractLsb' 0 8 = b := by
      refine BitVec.eq_of_getLsbD_eq fun i hi => ?_
      simp only [BitVec.getLsbD_extractLsb', BitVec.getLsbD_append]
      rw [if_pos (by omega), show 0 + i = i by omega]
      simp [hi]
    simp only [qualOf, qualField, h, if_true]
    exact congrArg some e

@[simp] theorem a16_high (a : Addr) : (a16 a).extractLsb' 16 8 = 0x00 := by
  refine BitVec.eq_of_getLsbD_eq fun i hi => ?_
  simp only [a16, BitVec.getLsbD_extractLsb', BitVec.getLsbD_append]
  rw [if_neg (by omega)]
  simp

@[simp] theorem a16_low (a : Addr) : (a16 a).extractLsb' 0 16 = a := by
  refine BitVec.eq_of_getLsbD_eq fun i hi => ?_
  simp only [a16, BitVec.getLsbD_extractLsb', BitVec.getLsbD_append]
  rw [if_pos (by omega), show 0 + i = i by omega]
  simp [hi]

@[simp] theorem withAddr16_a16 (a : Addr) (i : Addr → Instr) : withAddr16 (a16 a) i = .ok (i a) := by
  simp [withAddr16]

@[simp] theorem window_low (w : BitVec 2) : (0#6 ++ w).extractLsb' 0 2 = w := by
  refine BitVec.eq_of_getLsbD_eq fun i hi => ?_
  simp only [BitVec.getLsbD_extractLsb', BitVec.getLsbD_append]
  rw [if_pos (by omega), show 0 + i = i by omega]
  simp [hi]

@[simp] theorem Family.ofTag_tag (f : Family) : Family.ofTag f.tag = some f := by
  cases f <;> rfl

theorem Family.tag_injective {f g : Family} (h : f.tag = g.tag) : f = g := by
  have e := congrArg Family.ofTag h
  simpa using e

/-! ### The masks of the address-decode table -/

theorem and_mask (n lo len : Nat) (h : n < 2 ^ (lo + len)) :
    n &&& ((2 ^ len - 1) * 2 ^ lo) = n / 2 ^ lo * 2 ^ lo := by
  apply Nat.eq_of_testBit_eq
  intro i
  rw [Nat.testBit_and, Nat.testBit_mul_two_pow, Nat.testBit_mul_two_pow, Nat.testBit_two_pow_sub_one,
    Nat.testBit_div_two_pow]
  by_cases hi : lo ≤ i
  · rw [show i - lo + lo = i by omega]
    by_cases hl : i - lo < len
    · simp [hi, hl]
    · rw [Nat.testBit_lt_two_pow (Nat.lt_of_lt_of_le h (Nat.pow_le_pow_right (by omega) (by omega)))]
      simp
  · simp [hi]

theorem and_C000_toNat (a : Addr) : (a &&& 0xC000#16).toNat = a.toNat / 16384 * 16384 := by
  have h := and_mask a.toNat 14 2 a.isLt
  rw [BitVec.toNat_and]
  exact h

theorem and_FFFC_toNat (a : Addr) : (a &&& 0xFFFC#16).toNat = a.toNat / 4 * 4 := by
  have h := and_mask a.toNat 2 14 a.isLt
  rw [BitVec.toNat_and]
  exact h

theorem mask_direct (a : Addr) : a &&& 0xC000#16 = 0xC000#16 ↔ 0xC000 ≤ a.toNat := by
  rw [BitVec.toNat_eq, and_C000_toNat, show (0xC000#16).toNat = 0xC000 from rfl]
  have := a.isLt
  omega

theorem mask_window2 (a : Addr) : a &&& 0xC000#16 = 0x8000#16 ↔ if 0xC000 ≤ a.toNat then False else 0x8000 ≤ a.toNat := by
  rw [BitVec.toNat_eq, and_C000_toNat, show (0x8000#16).toNat = 0x8000 from rfl]
  have := a.isLt
  split
  · next h => exact iff_of_false (by omega) (by simp)
  · omega

theorem mask_regs (a : Addr) : a &&& 0xFFFC#16 = 0xFFFC#16 ↔ 0xFFFC ≤ a.toNat := by
  rw [BitVec.toNat_eq, and_FFFC_toNat, show (0xFFFC#16).toNat = 0xFFFC from rfl]
  have := a.isLt
  omega

theorem mask_all (a : Addr) : a &&& 0xFFFF#16 = a := by
  have : 0xFFFF#16 = BitVec.allOnes 16 := by decide
  rw [this, BitVec.and_allOnes]

theorem mask_none (a : Addr) : a &&& 0x0000#16 = 0x0000#16 := by
  simp

/-! ### The row each family selects (R95, R96) -/

/-- The rows of one family. -/
def familyRows : Family → List RowSpec
  | .noRule => noneRows
  | .romOnly => romOnlyRows
  | .sg1000 => sg1000Rows
  | .sega => segaRows
  | .codemasters => codemastersRows
  | .korean => koreanRows

theorem selectRow_eq (fam : Family) (dir : Dir) (r : Bool) (a : Addr) :
    selectRow fam dir r a = ((familyRows fam).find? fun q => q.hits fam dir r a).map (·.row) := by
  cases fam <;>
    simp [selectRow, addrTable, familyRows, noneRows, romOnlyRows, sg1000Rows, segaRows, codemastersRows,
      koreanRows, RowSpec.hits, List.find?_cons]

theorem selectRow_noRule_read (r : Bool) (a : Addr) :
    selectRow .noRule .read r a = some (if 0xC000 ≤ a.toNat then .noneRDirect else .noneRRest) := by
  rw [selectRow_eq]
  by_cases h : 0xC000 ≤ a.toNat <;> simp [familyRows, noneRows, RowSpec.hits, mask_direct, h]

theorem selectRow_noRule_write (r : Bool) (a : Addr) :
    selectRow .noRule .write r a = some (if 0xC000 ≤ a.toNat then .noneWDirect else .noneWRest) := by
  rw [selectRow_eq]
  by_cases h : 0xC000 ≤ a.toNat <;> simp [familyRows, noneRows, RowSpec.hits, mask_direct, h]

theorem selectRow_romOnly_read (r : Bool) (a : Addr) :
    selectRow .romOnly .read r a = some (if 0xC000 ≤ a.toNat then .romOnlyRDirect else .romOnlyRRest) := by
  rw [selectRow_eq]
  by_cases h : 0xC000 ≤ a.toNat <;> simp [familyRows, romOnlyRows, RowSpec.hits, mask_direct, h]

theorem selectRow_romOnly_write (r : Bool) (a : Addr) :
    selectRow .romOnly .write r a = some (if 0xC000 ≤ a.toNat then .romOnlyWDirect else .romOnlyWRest) := by
  rw [selectRow_eq]
  by_cases h : 0xC000 ≤ a.toNat <;> simp [familyRows, romOnlyRows, RowSpec.hits, mask_direct, h]

theorem selectRow_sg1000_read (r : Bool) (a : Addr) :
    selectRow .sg1000 .read r a = some (if 0xC000 ≤ a.toNat then .sg1000RDirect else .sg1000RRest) := by
  rw [selectRow_eq]
  by_cases h : 0xC000 ≤ a.toNat <;> simp [familyRows, sg1000Rows, RowSpec.hits, mask_direct, h]

theorem selectRow_sg1000_write (r : Bool) (a : Addr) :
    selectRow .sg1000 .write r a = some (if 0xC000 ≤ a.toNat then .sg1000WDirect else .sg1000WRest) := by
  rw [selectRow_eq]
  by_cases h : 0xC000 ≤ a.toNat <;> simp [familyRows, sg1000Rows, RowSpec.hits, mask_direct, h]

theorem selectRow_codemasters_read (r : Bool) (a : Addr) :
    selectRow .codemasters .read r a = some (if 0xC000 ≤ a.toNat then .codemastersRDirect else .codemastersRRest) := by
  rw [selectRow_eq]
  by_cases h : 0xC000 ≤ a.toNat <;> simp [familyRows, codemastersRows, RowSpec.hits, mask_direct, h]

theorem selectRow_korean_read (r : Bool) (a : Addr) :
    selectRow .korean .read r a = some (if 0xC000 ≤ a.toNat then .koreanRDirect else .koreanRRest) := by
  rw [selectRow_eq]
  by_cases h : 0xC000 ≤ a.toNat <;> simp [familyRows, koreanRows, RowSpec.hits, mask_direct, h]

theorem selectRow_sega_read (r : Bool) (a : Addr) :
    selectRow .sega .read r a = some (if 0xFFFC ≤ a.toNat then .segaRRegs
      else if 0xC000 ≤ a.toNat then .segaRDirect
      else if 0x8000 ≤ a.toNat then (if r then .segaRWin2Cram else .segaRWin2Rom) else .segaRWin01) := by
  rw [selectRow_eq]
  by_cases h1 : 0xFFFC ≤ a.toNat <;> by_cases h2 : 0xC000 ≤ a.toNat <;> by_cases h3 : 0x8000 ≤ a.toNat <;>
    cases r <;>
    simp [familyRows, segaRows, RowSpec.hits, List.find?_cons, mask_regs, mask_direct, mask_window2, h1, h2, h3]

theorem selectRow_sega_write (r : Bool) (a : Addr) :
    selectRow .sega .write r a = some (if a = 0xFFFC#16 then .segaWCtrl else if a = 0xFFFD#16 then .segaWX0
      else if a = 0xFFFE#16 then .segaWX1 else if a = 0xFFFF#16 then .segaWX2
      else if 0xC000 ≤ a.toNat then .segaWDirect
      else if 0x8000 ≤ a.toNat ∧ r = true then .segaWWin2Cram else .segaWRest) := by
  rw [selectRow_eq]
  by_cases e0 : a = 0xFFFC#16
  · simp [familyRows, segaRows, RowSpec.hits, List.find?_cons, mask_direct, mask_window2, mask_all, e0]
  by_cases e1 : a = 0xFFFD#16
  · simp [familyRows, segaRows, RowSpec.hits, List.find?_cons, mask_direct, mask_window2, mask_all, e1]
  by_cases e2 : a = 0xFFFE#16
  · simp [familyRows, segaRows, RowSpec.hits, List.find?_cons, mask_direct, mask_window2, mask_all, e2]
  by_cases e3 : a = 0xFFFF#16
  · simp [familyRows, segaRows, RowSpec.hits, List.find?_cons, mask_direct, mask_window2, mask_all, e3]
  by_cases h2 : 0xC000 ≤ a.toNat <;> by_cases h3 : 0x8000 ≤ a.toNat <;> cases r <;>
    simp [familyRows, segaRows, RowSpec.hits, List.find?_cons, mask_direct, mask_window2, mask_all, e0, e1, e2, e3, h2, h3]

theorem selectRow_codemasters_write (r : Bool) (a : Addr) :
    selectRow .codemasters .write r a = some (if a = 0x0000#16 then .codemastersWX0
      else if a = 0x4000#16 then .codemastersWX1 else if a = 0x8000#16 then .codemastersWX2
      else if 0xC000 ≤ a.toNat then .codemastersWDirect else .codemastersWRest) := by
  rw [selectRow_eq]
  by_cases e0 : a = 0x0000#16
  · simp [familyRows, codemastersRows, RowSpec.hits, List.find?_cons, mask_direct, mask_all, e0]
  by_cases e1 : a = 0x4000#16
  · simp [familyRows, codemastersRows, RowSpec.hits, List.find?_cons, mask_direct, mask_all, e1]
  by_cases e2 : a = 0x8000#16
  · simp [familyRows, codemastersRows, RowSpec.hits, List.find?_cons, mask_direct, mask_all, e2]
  by_cases h2 : 0xC000 ≤ a.toNat <;> simp [familyRows, codemastersRows, RowSpec.hits, List.find?_cons, mask_direct, mask_all, e0, e1, e2, h2]

theorem selectRow_korean_write (r : Bool) (a : Addr) :
    selectRow .korean .write r a = some (if a = 0xA000#16 then .koreanWX2
      else if 0xC000 ≤ a.toNat then .koreanWDirect else .koreanWRest) := by
  rw [selectRow_eq]
  by_cases e0 : a = 0xA000#16
  · simp [familyRows, koreanRows, RowSpec.hits, List.find?_cons, mask_direct, mask_all, e0]
  by_cases h2 : 0xC000 ≤ a.toNat <;> simp [familyRows, koreanRows, RowSpec.hits, List.find?_cons, mask_direct, mask_all, e0, h2]

/-- The address decoder is total: every access selects a row (R95). -/
theorem selectRow_total (fam : Family) (dir : Dir) (r : Bool) (a : Addr) :
    ∃ row, selectRow fam dir r a = some row := by
  cases fam <;> cases dir <;>
    exact ⟨_, by first
      | exact selectRow_noRule_read r a | exact selectRow_noRule_write r a
      | exact selectRow_romOnly_read r a | exact selectRow_romOnly_write r a
      | exact selectRow_sg1000_read r a | exact selectRow_sg1000_write r a
      | exact selectRow_sega_read r a | exact selectRow_sega_write r a
      | exact selectRow_codemasters_read r a | exact selectRow_codemasters_write r a
      | exact selectRow_korean_read r a | exact selectRow_korean_write r a⟩

end Sys2Proof
end

