-- ==== Sys2Proof/Laws/State.lean ====
section
/-! SUPPORT. One lemma per field and update: what each named update of the state leaves each field at. -/

namespace Sys2Proof.Machine

@[simp] theorem State.respond_map (s : State) (r : Response) : (s.respond r).map = s.map := rfl
@[simp] theorem State.respond_family (s : State) (r : Response) : (s.respond r).family = s.family := rfl
@[simp] theorem State.respond_rom (s : State) (r : Response) : (s.respond r).rom = s.rom := rfl
@[simp] theorem State.respond_stage (s : State) (r : Response) : (s.respond r).stage = s.stage := rfl
@[simp] theorem State.respond_x0 (s : State) (r : Response) : (s.respond r).x0 = s.x0 := rfl
@[simp] theorem State.respond_x1 (s : State) (r : Response) : (s.respond r).x1 = s.x1 := rfl
@[simp] theorem State.respond_x2 (s : State) (r : Response) : (s.respond r).x2 = s.x2 := rfl
@[simp] theorem State.respond_ctrl (s : State) (r : Response) : (s.respond r).ctrl = s.ctrl := rfl
@[simp] theorem State.respond_cram (s : State) (r : Response) : (s.respond r).cram = s.cram := rfl
@[simp] theorem State.respond_bp (s : State) (r : Response) : (s.respond r).bp = s.bp := rfl
@[simp] theorem State.respond_runtoValid (s : State) (r : Response) : (s.respond r).runtoValid = s.runtoValid := rfl
@[simp] theorem State.respond_runtoAddr (s : State) (r : Response) : (s.respond r).runtoAddr = s.runtoAddr := rfl
@[simp] theorem State.respond_runtoQual (s : State) (r : Response) : (s.respond r).runtoQual = s.runtoQual := rfl
@[simp] theorem State.respond_runtoHit (s : State) (r : Response) : (s.respond r).runtoHit = s.runtoHit := rfl
@[simp] theorem State.respond_initialised (s : State) (r : Response) : (s.respond r).initialised = s.initialised := rfl
@[simp] theorem State.respond_draws (s : State) (r : Response) : (s.respond r).draws = s.draws := rfl
@[simp] theorem State.respond_inbox (s : State) (r : Response) : (s.respond r).inbox = s.inbox := rfl
@[simp] theorem State.respond_response (s : State) (r : Response) : (s.respond r).response = some r := rfl

@[simp] theorem State.done_map (s : State) : (s.done).map = s.map := rfl
@[simp] theorem State.done_family (s : State) : (s.done).family = s.family := rfl
@[simp] theorem State.done_rom (s : State) : (s.done).rom = s.rom := rfl
@[simp] theorem State.done_stage (s : State) : (s.done).stage = s.stage := rfl
@[simp] theorem State.done_x0 (s : State) : (s.done).x0 = s.x0 := rfl
@[simp] theorem State.done_x1 (s : State) : (s.done).x1 = s.x1 := rfl
@[simp] theorem State.done_x2 (s : State) : (s.done).x2 = s.x2 := rfl
@[simp] theorem State.done_ctrl (s : State) : (s.done).ctrl = s.ctrl := rfl
@[simp] theorem State.done_cram (s : State) : (s.done).cram = s.cram := rfl
@[simp] theorem State.done_bp (s : State) : (s.done).bp = s.bp := rfl
@[simp] theorem State.done_runtoValid (s : State) : (s.done).runtoValid = s.runtoValid := rfl
@[simp] theorem State.done_runtoAddr (s : State) : (s.done).runtoAddr = s.runtoAddr := rfl
@[simp] theorem State.done_runtoQual (s : State) : (s.done).runtoQual = s.runtoQual := rfl
@[simp] theorem State.done_runtoHit (s : State) : (s.done).runtoHit = s.runtoHit := rfl
@[simp] theorem State.done_initialised (s : State) : (s.done).initialised = s.initialised := rfl
@[simp] theorem State.done_draws (s : State) : (s.done).draws = s.draws := rfl
@[simp] theorem State.done_inbox (s : State) : (s.done).inbox = s.inbox := rfl
@[simp] theorem State.done_response (s : State) : (s.done).response = some (resp .ok 0x00 0) := rfl

@[simp] theorem State.raise_map (s : State) (st : Status) (v : Num24) : (s.raise st v).map = s.map := rfl
@[simp] theorem State.raise_family (s : State) (st : Status) (v : Num24) : (s.raise st v).family = s.family := rfl
@[simp] theorem State.raise_rom (s : State) (st : Status) (v : Num24) : (s.raise st v).rom = s.rom := rfl
@[simp] theorem State.raise_stage (s : State) (st : Status) (v : Num24) : (s.raise st v).stage = s.stage := rfl
@[simp] theorem State.raise_x0 (s : State) (st : Status) (v : Num24) : (s.raise st v).x0 = s.x0 := rfl
@[simp] theorem State.raise_x1 (s : State) (st : Status) (v : Num24) : (s.raise st v).x1 = s.x1 := rfl
@[simp] theorem State.raise_x2 (s : State) (st : Status) (v : Num24) : (s.raise st v).x2 = s.x2 := rfl
@[simp] theorem State.raise_ctrl (s : State) (st : Status) (v : Num24) : (s.raise st v).ctrl = s.ctrl := rfl
@[simp] theorem State.raise_cram (s : State) (st : Status) (v : Num24) : (s.raise st v).cram = s.cram := rfl
@[simp] theorem State.raise_bp (s : State) (st : Status) (v : Num24) : (s.raise st v).bp = s.bp := rfl
@[simp] theorem State.raise_runtoValid (s : State) (st : Status) (v : Num24) : (s.raise st v).runtoValid = s.runtoValid := rfl
@[simp] theorem State.raise_runtoAddr (s : State) (st : Status) (v : Num24) : (s.raise st v).runtoAddr = s.runtoAddr := rfl
@[simp] theorem State.raise_runtoQual (s : State) (st : Status) (v : Num24) : (s.raise st v).runtoQual = s.runtoQual := rfl
@[simp] theorem State.raise_runtoHit (s : State) (st : Status) (v : Num24) : (s.raise st v).runtoHit = s.runtoHit := rfl
@[simp] theorem State.raise_initialised (s : State) (st : Status) (v : Num24) : (s.raise st v).initialised = s.initialised := rfl
@[simp] theorem State.raise_draws (s : State) (st : Status) (v : Num24) : (s.raise st v).draws = s.draws := rfl
@[simp] theorem State.raise_inbox (s : State) (st : Status) (v : Num24) : (s.raise st v).inbox = s.inbox := rfl
@[simp] theorem State.raise_response (s : State) (st : Status) (v : Num24) : (s.raise st v).response = some (resp st 0x00 v) := rfl

@[simp] theorem State.storeMap_map (s : State) (a : Addr) (v : Byte) : (s.storeMap a v).map = s.map.write a.toNat v := rfl
@[simp] theorem State.storeMap_family (s : State) (a : Addr) (v : Byte) : (s.storeMap a v).family = s.family := rfl
@[simp] theorem State.storeMap_rom (s : State) (a : Addr) (v : Byte) : (s.storeMap a v).rom = s.rom := rfl
@[simp] theorem State.storeMap_stage (s : State) (a : Addr) (v : Byte) : (s.storeMap a v).stage = s.stage := rfl
@[simp] theorem State.storeMap_x0 (s : State) (a : Addr) (v : Byte) : (s.storeMap a v).x0 = s.x0 := rfl
@[simp] theorem State.storeMap_x1 (s : State) (a : Addr) (v : Byte) : (s.storeMap a v).x1 = s.x1 := rfl
@[simp] theorem State.storeMap_x2 (s : State) (a : Addr) (v : Byte) : (s.storeMap a v).x2 = s.x2 := rfl
@[simp] theorem State.storeMap_ctrl (s : State) (a : Addr) (v : Byte) : (s.storeMap a v).ctrl = s.ctrl := rfl
@[simp] theorem State.storeMap_cram (s : State) (a : Addr) (v : Byte) : (s.storeMap a v).cram = s.cram := rfl
@[simp] theorem State.storeMap_bp (s : State) (a : Addr) (v : Byte) : (s.storeMap a v).bp = s.bp := rfl
@[simp] theorem State.storeMap_runtoValid (s : State) (a : Addr) (v : Byte) : (s.storeMap a v).runtoValid = s.runtoValid := rfl
@[simp] theorem State.storeMap_runtoAddr (s : State) (a : Addr) (v : Byte) : (s.storeMap a v).runtoAddr = s.runtoAddr := rfl
@[simp] theorem State.storeMap_runtoQual (s : State) (a : Addr) (v : Byte) : (s.storeMap a v).runtoQual = s.runtoQual := rfl
@[simp] theorem State.storeMap_runtoHit (s : State) (a : Addr) (v : Byte) : (s.storeMap a v).runtoHit = s.runtoHit := rfl
@[simp] theorem State.storeMap_initialised (s : State) (a : Addr) (v : Byte) : (s.storeMap a v).initialised = s.initialised := rfl
@[simp] theorem State.storeMap_draws (s : State) (a : Addr) (v : Byte) : (s.storeMap a v).draws = s.draws := rfl
@[simp] theorem State.storeMap_inbox (s : State) (a : Addr) (v : Byte) : (s.storeMap a v).inbox = s.inbox := rfl
@[simp] theorem State.storeMap_response (s : State) (a : Addr) (v : Byte) : (s.storeMap a v).response = s.response := rfl

@[simp] theorem State.storeCram_map (s : State) (c : Nat) (v : Byte) : (s.storeCram c v).map = s.map := rfl
@[simp] theorem State.storeCram_family (s : State) (c : Nat) (v : Byte) : (s.storeCram c v).family = s.family := rfl
@[simp] theorem State.storeCram_rom (s : State) (c : Nat) (v : Byte) : (s.storeCram c v).rom = s.rom := rfl
@[simp] theorem State.storeCram_stage (s : State) (c : Nat) (v : Byte) : (s.storeCram c v).stage = s.stage := rfl
@[simp] theorem State.storeCram_x0 (s : State) (c : Nat) (v : Byte) : (s.storeCram c v).x0 = s.x0 := rfl
@[simp] theorem State.storeCram_x1 (s : State) (c : Nat) (v : Byte) : (s.storeCram c v).x1 = s.x1 := rfl
@[simp] theorem State.storeCram_x2 (s : State) (c : Nat) (v : Byte) : (s.storeCram c v).x2 = s.x2 := rfl
@[simp] theorem State.storeCram_ctrl (s : State) (c : Nat) (v : Byte) : (s.storeCram c v).ctrl = s.ctrl := rfl
@[simp] theorem State.storeCram_cram (s : State) (c : Nat) (v : Byte) : (s.storeCram c v).cram = s.cram.write c v := rfl
@[simp] theorem State.storeCram_bp (s : State) (c : Nat) (v : Byte) : (s.storeCram c v).bp = s.bp := rfl
@[simp] theorem State.storeCram_runtoValid (s : State) (c : Nat) (v : Byte) : (s.storeCram c v).runtoValid = s.runtoValid := rfl
@[simp] theorem State.storeCram_runtoAddr (s : State) (c : Nat) (v : Byte) : (s.storeCram c v).runtoAddr = s.runtoAddr := rfl
@[simp] theorem State.storeCram_runtoQual (s : State) (c : Nat) (v : Byte) : (s.storeCram c v).runtoQual = s.runtoQual := rfl
@[simp] theorem State.storeCram_runtoHit (s : State) (c : Nat) (v : Byte) : (s.storeCram c v).runtoHit = s.runtoHit := rfl
@[simp] theorem State.storeCram_initialised (s : State) (c : Nat) (v : Byte) : (s.storeCram c v).initialised = s.initialised := rfl
@[simp] theorem State.storeCram_draws (s : State) (c : Nat) (v : Byte) : (s.storeCram c v).draws = s.draws := rfl
@[simp] theorem State.storeCram_inbox (s : State) (c : Nat) (v : Byte) : (s.storeCram c v).inbox = s.inbox := rfl
@[simp] theorem State.storeCram_response (s : State) (c : Nat) (v : Byte) : (s.storeCram c v).response = s.response := rfl

@[simp] theorem State.setX0_map (s : State) (v : Byte) : (s.setX0 v).map = s.map := rfl
@[simp] theorem State.setX0_family (s : State) (v : Byte) : (s.setX0 v).family = s.family := rfl
@[simp] theorem State.setX0_rom (s : State) (v : Byte) : (s.setX0 v).rom = s.rom := rfl
@[simp] theorem State.setX0_stage (s : State) (v : Byte) : (s.setX0 v).stage = s.stage := rfl
@[simp] theorem State.setX0_x0 (s : State) (v : Byte) : (s.setX0 v).x0 = v := rfl
@[simp] theorem State.setX0_x1 (s : State) (v : Byte) : (s.setX0 v).x1 = s.x1 := rfl
@[simp] theorem State.setX0_x2 (s : State) (v : Byte) : (s.setX0 v).x2 = s.x2 := rfl
@[simp] theorem State.setX0_ctrl (s : State) (v : Byte) : (s.setX0 v).ctrl = s.ctrl := rfl
@[simp] theorem State.setX0_cram (s : State) (v : Byte) : (s.setX0 v).cram = s.cram := rfl
@[simp] theorem State.setX0_bp (s : State) (v : Byte) : (s.setX0 v).bp = s.bp := rfl
@[simp] theorem State.setX0_runtoValid (s : State) (v : Byte) : (s.setX0 v).runtoValid = s.runtoValid := rfl
@[simp] theorem State.setX0_runtoAddr (s : State) (v : Byte) : (s.setX0 v).runtoAddr = s.runtoAddr := rfl
@[simp] theorem State.setX0_runtoQual (s : State) (v : Byte) : (s.setX0 v).runtoQual = s.runtoQual := rfl
@[simp] theorem State.setX0_runtoHit (s : State) (v : Byte) : (s.setX0 v).runtoHit = s.runtoHit := rfl
@[simp] theorem State.setX0_initialised (s : State) (v : Byte) : (s.setX0 v).initialised = s.initialised := rfl
@[simp] theorem State.setX0_draws (s : State) (v : Byte) : (s.setX0 v).draws = s.draws := rfl
@[simp] theorem State.setX0_inbox (s : State) (v : Byte) : (s.setX0 v).inbox = s.inbox := rfl
@[simp] theorem State.setX0_response (s : State) (v : Byte) : (s.setX0 v).response = s.response := rfl

@[simp] theorem State.setX1_map (s : State) (v : Byte) : (s.setX1 v).map = s.map := rfl
@[simp] theorem State.setX1_family (s : State) (v : Byte) : (s.setX1 v).family = s.family := rfl
@[simp] theorem State.setX1_rom (s : State) (v : Byte) : (s.setX1 v).rom = s.rom := rfl
@[simp] theorem State.setX1_stage (s : State) (v : Byte) : (s.setX1 v).stage = s.stage := rfl
@[simp] theorem State.setX1_x0 (s : State) (v : Byte) : (s.setX1 v).x0 = s.x0 := rfl
@[simp] theorem State.setX1_x1 (s : State) (v : Byte) : (s.setX1 v).x1 = v := rfl
@[simp] theorem State.setX1_x2 (s : State) (v : Byte) : (s.setX1 v).x2 = s.x2 := rfl
@[simp] theorem State.setX1_ctrl (s : State) (v : Byte) : (s.setX1 v).ctrl = s.ctrl := rfl
@[simp] theorem State.setX1_cram (s : State) (v : Byte) : (s.setX1 v).cram = s.cram := rfl
@[simp] theorem State.setX1_bp (s : State) (v : Byte) : (s.setX1 v).bp = s.bp := rfl
@[simp] theorem State.setX1_runtoValid (s : State) (v : Byte) : (s.setX1 v).runtoValid = s.runtoValid := rfl
@[simp] theorem State.setX1_runtoAddr (s : State) (v : Byte) : (s.setX1 v).runtoAddr = s.runtoAddr := rfl
@[simp] theorem State.setX1_runtoQual (s : State) (v : Byte) : (s.setX1 v).runtoQual = s.runtoQual := rfl
@[simp] theorem State.setX1_runtoHit (s : State) (v : Byte) : (s.setX1 v).runtoHit = s.runtoHit := rfl
@[simp] theorem State.setX1_initialised (s : State) (v : Byte) : (s.setX1 v).initialised = s.initialised := rfl
@[simp] theorem State.setX1_draws (s : State) (v : Byte) : (s.setX1 v).draws = s.draws := rfl
@[simp] theorem State.setX1_inbox (s : State) (v : Byte) : (s.setX1 v).inbox = s.inbox := rfl
@[simp] theorem State.setX1_response (s : State) (v : Byte) : (s.setX1 v).response = s.response := rfl

@[simp] theorem State.setX2_map (s : State) (v : Byte) : (s.setX2 v).map = s.map := rfl
@[simp] theorem State.setX2_family (s : State) (v : Byte) : (s.setX2 v).family = s.family := rfl
@[simp] theorem State.setX2_rom (s : State) (v : Byte) : (s.setX2 v).rom = s.rom := rfl
@[simp] theorem State.setX2_stage (s : State) (v : Byte) : (s.setX2 v).stage = s.stage := rfl
@[simp] theorem State.setX2_x0 (s : State) (v : Byte) : (s.setX2 v).x0 = s.x0 := rfl
@[simp] theorem State.setX2_x1 (s : State) (v : Byte) : (s.setX2 v).x1 = s.x1 := rfl
@[simp] theorem State.setX2_x2 (s : State) (v : Byte) : (s.setX2 v).x2 = v := rfl
@[simp] theorem State.setX2_ctrl (s : State) (v : Byte) : (s.setX2 v).ctrl = s.ctrl := rfl
@[simp] theorem State.setX2_cram (s : State) (v : Byte) : (s.setX2 v).cram = s.cram := rfl
@[simp] theorem State.setX2_bp (s : State) (v : Byte) : (s.setX2 v).bp = s.bp := rfl
@[simp] theorem State.setX2_runtoValid (s : State) (v : Byte) : (s.setX2 v).runtoValid = s.runtoValid := rfl
@[simp] theorem State.setX2_runtoAddr (s : State) (v : Byte) : (s.setX2 v).runtoAddr = s.runtoAddr := rfl
@[simp] theorem State.setX2_runtoQual (s : State) (v : Byte) : (s.setX2 v).runtoQual = s.runtoQual := rfl
@[simp] theorem State.setX2_runtoHit (s : State) (v : Byte) : (s.setX2 v).runtoHit = s.runtoHit := rfl
@[simp] theorem State.setX2_initialised (s : State) (v : Byte) : (s.setX2 v).initialised = s.initialised := rfl
@[simp] theorem State.setX2_draws (s : State) (v : Byte) : (s.setX2 v).draws = s.draws := rfl
@[simp] theorem State.setX2_inbox (s : State) (v : Byte) : (s.setX2 v).inbox = s.inbox := rfl
@[simp] theorem State.setX2_response (s : State) (v : Byte) : (s.setX2 v).response = s.response := rfl

@[simp] theorem State.setCtrl_map (s : State) (v : Byte) : (s.setCtrl v).map = s.map := rfl
@[simp] theorem State.setCtrl_family (s : State) (v : Byte) : (s.setCtrl v).family = s.family := rfl
@[simp] theorem State.setCtrl_rom (s : State) (v : Byte) : (s.setCtrl v).rom = s.rom := rfl
@[simp] theorem State.setCtrl_stage (s : State) (v : Byte) : (s.setCtrl v).stage = s.stage := rfl
@[simp] theorem State.setCtrl_x0 (s : State) (v : Byte) : (s.setCtrl v).x0 = s.x0 := rfl
@[simp] theorem State.setCtrl_x1 (s : State) (v : Byte) : (s.setCtrl v).x1 = s.x1 := rfl
@[simp] theorem State.setCtrl_x2 (s : State) (v : Byte) : (s.setCtrl v).x2 = s.x2 := rfl
@[simp] theorem State.setCtrl_ctrl (s : State) (v : Byte) : (s.setCtrl v).ctrl = v := rfl
@[simp] theorem State.setCtrl_cram (s : State) (v : Byte) : (s.setCtrl v).cram = s.cram := rfl
@[simp] theorem State.setCtrl_bp (s : State) (v : Byte) : (s.setCtrl v).bp = s.bp := rfl
@[simp] theorem State.setCtrl_runtoValid (s : State) (v : Byte) : (s.setCtrl v).runtoValid = s.runtoValid := rfl
@[simp] theorem State.setCtrl_runtoAddr (s : State) (v : Byte) : (s.setCtrl v).runtoAddr = s.runtoAddr := rfl
@[simp] theorem State.setCtrl_runtoQual (s : State) (v : Byte) : (s.setCtrl v).runtoQual = s.runtoQual := rfl
@[simp] theorem State.setCtrl_runtoHit (s : State) (v : Byte) : (s.setCtrl v).runtoHit = s.runtoHit := rfl
@[simp] theorem State.setCtrl_initialised (s : State) (v : Byte) : (s.setCtrl v).initialised = s.initialised := rfl
@[simp] theorem State.setCtrl_draws (s : State) (v : Byte) : (s.setCtrl v).draws = s.draws := rfl
@[simp] theorem State.setCtrl_inbox (s : State) (v : Byte) : (s.setCtrl v).inbox = s.inbox := rfl
@[simp] theorem State.setCtrl_response (s : State) (v : Byte) : (s.setCtrl v).response = s.response := rfl

@[simp] theorem State.ruleReset_map (s : State) (f : Family) : (s.ruleReset f).map = s.map := rfl
@[simp] theorem State.ruleReset_family (s : State) (f : Family) : (s.ruleReset f).family = s.family := rfl
@[simp] theorem State.ruleReset_rom (s : State) (f : Family) : (s.ruleReset f).rom = s.rom := rfl
@[simp] theorem State.ruleReset_stage (s : State) (f : Family) : (s.ruleReset f).stage = s.stage := rfl
@[simp] theorem State.ruleReset_x0 (s : State) (f : Family) : (s.ruleReset f).x0 = 0x00 := rfl
@[simp] theorem State.ruleReset_x1 (s : State) (f : Family) : (s.ruleReset f).x1 = 0x01 := rfl
@[simp] theorem State.ruleReset_x2 (s : State) (f : Family) : (s.ruleReset f).x2 = powerOnX2 f := rfl
@[simp] theorem State.ruleReset_ctrl (s : State) (f : Family) : (s.ruleReset f).ctrl = 0x00 := rfl
@[simp] theorem State.ruleReset_cram (s : State) (f : Family) : (s.ruleReset f).cram = s.cram := rfl
@[simp] theorem State.ruleReset_bp (s : State) (f : Family) : (s.ruleReset f).bp = s.bp := rfl
@[simp] theorem State.ruleReset_runtoValid (s : State) (f : Family) : (s.ruleReset f).runtoValid = s.runtoValid := rfl
@[simp] theorem State.ruleReset_runtoAddr (s : State) (f : Family) : (s.ruleReset f).runtoAddr = s.runtoAddr := rfl
@[simp] theorem State.ruleReset_runtoQual (s : State) (f : Family) : (s.ruleReset f).runtoQual = s.runtoQual := rfl
@[simp] theorem State.ruleReset_runtoHit (s : State) (f : Family) : (s.ruleReset f).runtoHit = s.runtoHit := rfl
@[simp] theorem State.ruleReset_initialised (s : State) (f : Family) : (s.ruleReset f).initialised = s.initialised := rfl
@[simp] theorem State.ruleReset_draws (s : State) (f : Family) : (s.ruleReset f).draws = s.draws := rfl
@[simp] theorem State.ruleReset_inbox (s : State) (f : Family) : (s.ruleReset f).inbox = s.inbox := rfl
@[simp] theorem State.ruleReset_response (s : State) (f : Family) : (s.ruleReset f).response = s.response := rfl

@[simp] theorem State.armRunTo_map (s : State) (a : Addr) (q : Option Byte) : (s.armRunTo a q).map = s.map := rfl
@[simp] theorem State.armRunTo_family (s : State) (a : Addr) (q : Option Byte) : (s.armRunTo a q).family = s.family := rfl
@[simp] theorem State.armRunTo_rom (s : State) (a : Addr) (q : Option Byte) : (s.armRunTo a q).rom = s.rom := rfl
@[simp] theorem State.armRunTo_stage (s : State) (a : Addr) (q : Option Byte) : (s.armRunTo a q).stage = s.stage := rfl
@[simp] theorem State.armRunTo_x0 (s : State) (a : Addr) (q : Option Byte) : (s.armRunTo a q).x0 = s.x0 := rfl
@[simp] theorem State.armRunTo_x1 (s : State) (a : Addr) (q : Option Byte) : (s.armRunTo a q).x1 = s.x1 := rfl
@[simp] theorem State.armRunTo_x2 (s : State) (a : Addr) (q : Option Byte) : (s.armRunTo a q).x2 = s.x2 := rfl
@[simp] theorem State.armRunTo_ctrl (s : State) (a : Addr) (q : Option Byte) : (s.armRunTo a q).ctrl = s.ctrl := rfl
@[simp] theorem State.armRunTo_cram (s : State) (a : Addr) (q : Option Byte) : (s.armRunTo a q).cram = s.cram := rfl
@[simp] theorem State.armRunTo_bp (s : State) (a : Addr) (q : Option Byte) : (s.armRunTo a q).bp = s.bp := rfl
@[simp] theorem State.armRunTo_runtoValid (s : State) (a : Addr) (q : Option Byte) : (s.armRunTo a q).runtoValid = true := rfl
@[simp] theorem State.armRunTo_runtoAddr (s : State) (a : Addr) (q : Option Byte) : (s.armRunTo a q).runtoAddr = a := rfl
@[simp] theorem State.armRunTo_runtoQual (s : State) (a : Addr) (q : Option Byte) : (s.armRunTo a q).runtoQual = q := rfl
@[simp] theorem State.armRunTo_runtoHit (s : State) (a : Addr) (q : Option Byte) : (s.armRunTo a q).runtoHit = false := rfl
@[simp] theorem State.armRunTo_initialised (s : State) (a : Addr) (q : Option Byte) : (s.armRunTo a q).initialised = s.initialised := rfl
@[simp] theorem State.armRunTo_draws (s : State) (a : Addr) (q : Option Byte) : (s.armRunTo a q).draws = s.draws := rfl
@[simp] theorem State.armRunTo_inbox (s : State) (a : Addr) (q : Option Byte) : (s.armRunTo a q).inbox = s.inbox := rfl
@[simp] theorem State.armRunTo_response (s : State) (a : Addr) (q : Option Byte) : (s.armRunTo a q).response = s.response := rfl

@[simp] theorem State.disarmRunTo_map (s : State) : (s.disarmRunTo).map = s.map := rfl
@[simp] theorem State.disarmRunTo_family (s : State) : (s.disarmRunTo).family = s.family := rfl
@[simp] theorem State.disarmRunTo_rom (s : State) : (s.disarmRunTo).rom = s.rom := rfl
@[simp] theorem State.disarmRunTo_stage (s : State) : (s.disarmRunTo).stage = s.stage := rfl
@[simp] theorem State.disarmRunTo_x0 (s : State) : (s.disarmRunTo).x0 = s.x0 := rfl
@[simp] theorem State.disarmRunTo_x1 (s : State) : (s.disarmRunTo).x1 = s.x1 := rfl
@[simp] theorem State.disarmRunTo_x2 (s : State) : (s.disarmRunTo).x2 = s.x2 := rfl
@[simp] theorem State.disarmRunTo_ctrl (s : State) : (s.disarmRunTo).ctrl = s.ctrl := rfl
@[simp] theorem State.disarmRunTo_cram (s : State) : (s.disarmRunTo).cram = s.cram := rfl
@[simp] theorem State.disarmRunTo_bp (s : State) : (s.disarmRunTo).bp = s.bp := rfl
@[simp] theorem State.disarmRunTo_runtoValid (s : State) : (s.disarmRunTo).runtoValid = false := rfl
@[simp] theorem State.disarmRunTo_runtoAddr (s : State) : (s.disarmRunTo).runtoAddr = s.runtoAddr := rfl
@[simp] theorem State.disarmRunTo_runtoQual (s : State) : (s.disarmRunTo).runtoQual = s.runtoQual := rfl
@[simp] theorem State.disarmRunTo_runtoHit (s : State) : (s.disarmRunTo).runtoHit = false := rfl
@[simp] theorem State.disarmRunTo_initialised (s : State) : (s.disarmRunTo).initialised = s.initialised := rfl
@[simp] theorem State.disarmRunTo_draws (s : State) : (s.disarmRunTo).draws = s.draws := rfl
@[simp] theorem State.disarmRunTo_inbox (s : State) : (s.disarmRunTo).inbox = s.inbox := rfl
@[simp] theorem State.disarmRunTo_response (s : State) : (s.disarmRunTo).response = s.response := rfl

@[simp] theorem State.runToCheck_map (s : State) (a : Addr) : (s.runToCheck a).map = s.map := rfl
@[simp] theorem State.runToCheck_family (s : State) (a : Addr) : (s.runToCheck a).family = s.family := rfl
@[simp] theorem State.runToCheck_rom (s : State) (a : Addr) : (s.runToCheck a).rom = s.rom := rfl
@[simp] theorem State.runToCheck_stage (s : State) (a : Addr) : (s.runToCheck a).stage = s.stage := rfl
@[simp] theorem State.runToCheck_x0 (s : State) (a : Addr) : (s.runToCheck a).x0 = s.x0 := rfl
@[simp] theorem State.runToCheck_x1 (s : State) (a : Addr) : (s.runToCheck a).x1 = s.x1 := rfl
@[simp] theorem State.runToCheck_x2 (s : State) (a : Addr) : (s.runToCheck a).x2 = s.x2 := rfl
@[simp] theorem State.runToCheck_ctrl (s : State) (a : Addr) : (s.runToCheck a).ctrl = s.ctrl := rfl
@[simp] theorem State.runToCheck_cram (s : State) (a : Addr) : (s.runToCheck a).cram = s.cram := rfl
@[simp] theorem State.runToCheck_bp (s : State) (a : Addr) : (s.runToCheck a).bp = s.bp := rfl
@[simp] theorem State.runToCheck_runtoValid (s : State) (a : Addr) : (s.runToCheck a).runtoValid = s.runtoValid := rfl
@[simp] theorem State.runToCheck_runtoAddr (s : State) (a : Addr) : (s.runToCheck a).runtoAddr = s.runtoAddr := rfl
@[simp] theorem State.runToCheck_runtoQual (s : State) (a : Addr) : (s.runToCheck a).runtoQual = s.runtoQual := rfl
@[simp] theorem State.runToCheck_runtoHit (s : State) (a : Addr) : (s.runToCheck a).runtoHit = (s.runtoHit || s.runToMatches a) := rfl
@[simp] theorem State.runToCheck_initialised (s : State) (a : Addr) : (s.runToCheck a).initialised = s.initialised := rfl
@[simp] theorem State.runToCheck_draws (s : State) (a : Addr) : (s.runToCheck a).draws = s.draws := rfl
@[simp] theorem State.runToCheck_inbox (s : State) (a : Addr) : (s.runToCheck a).inbox = s.inbox := rfl
@[simp] theorem State.runToCheck_response (s : State) (a : Addr) : (s.runToCheck a).response = s.response := rfl

@[simp] theorem State.observeRunTo_map (s : State) : s.observeRunTo.map = s.map := by
  cases h : s.runtoHit <;> simp [State.observeRunTo, h]
@[simp] theorem State.observeRunTo_family (s : State) : s.observeRunTo.family = s.family := by
  cases h : s.runtoHit <;> simp [State.observeRunTo, h]
@[simp] theorem State.observeRunTo_rom (s : State) : s.observeRunTo.rom = s.rom := by
  cases h : s.runtoHit <;> simp [State.observeRunTo, h]
@[simp] theorem State.observeRunTo_stage (s : State) : s.observeRunTo.stage = s.stage := by
  cases h : s.runtoHit <;> simp [State.observeRunTo, h]
@[simp] theorem State.observeRunTo_x0 (s : State) : s.observeRunTo.x0 = s.x0 := by
  cases h : s.runtoHit <;> simp [State.observeRunTo, h]
@[simp] theorem State.observeRunTo_x1 (s : State) : s.observeRunTo.x1 = s.x1 := by
  cases h : s.runtoHit <;> simp [State.observeRunTo, h]
@[simp] theorem State.observeRunTo_x2 (s : State) : s.observeRunTo.x2 = s.x2 := by
  cases h : s.runtoHit <;> simp [State.observeRunTo, h]
@[simp] theorem State.observeRunTo_ctrl (s : State) : s.observeRunTo.ctrl = s.ctrl := by
  cases h : s.runtoHit <;> simp [State.observeRunTo, h]
@[simp] theorem State.observeRunTo_cram (s : State) : s.observeRunTo.cram = s.cram := by
  cases h : s.runtoHit <;> simp [State.observeRunTo, h]
@[simp] theorem State.observeRunTo_bp (s : State) : s.observeRunTo.bp = s.bp := by
  cases h : s.runtoHit <;> simp [State.observeRunTo, h]
@[simp] theorem State.observeRunTo_runtoValid (s : State) : s.observeRunTo.runtoValid = (s.runtoValid && !s.runtoHit) := by
  cases h : s.runtoHit <;> simp [State.observeRunTo, h]
@[simp] theorem State.observeRunTo_runtoAddr (s : State) : s.observeRunTo.runtoAddr = s.runtoAddr := by
  cases h : s.runtoHit <;> simp [State.observeRunTo, h]
@[simp] theorem State.observeRunTo_runtoQual (s : State) : s.observeRunTo.runtoQual = s.runtoQual := by
  cases h : s.runtoHit <;> simp [State.observeRunTo, h]
@[simp] theorem State.observeRunTo_runtoHit (s : State) : s.observeRunTo.runtoHit = false := by
  cases h : s.runtoHit <;> simp [State.observeRunTo, h]
@[simp] theorem State.observeRunTo_initialised (s : State) : s.observeRunTo.initialised = s.initialised := by
  cases h : s.runtoHit <;> simp [State.observeRunTo, h]
@[simp] theorem State.observeRunTo_draws (s : State) : s.observeRunTo.draws = s.draws := by
  cases h : s.runtoHit <;> simp [State.observeRunTo, h]
@[simp] theorem State.observeRunTo_inbox (s : State) : s.observeRunTo.inbox = s.inbox := by
  cases h : s.runtoHit <;> simp [State.observeRunTo, h]
@[simp] theorem State.observeRunTo_response (s : State) : s.observeRunTo.response = s.response := by
  cases h : s.runtoHit <;> simp [State.observeRunTo, h]

end Sys2Proof.Machine
end

