-- ==== Sys2Proof/Laws/Ops.lean ====
section
/-! SUPPORT. For each operation the meanings share, one lemma that says everything it can do. -/

set_option linter.unusedSimpArgs false

namespace Sys2Proof.Machine

/-! ### The access of one row -/

theorem State.readBy_selected {s : State} {row : Row} {a : Addr} (b : Byte)
    (h : selectRow s.family .read (ramen s.ctrl) a = some row) :
    s.readBy row a b = .next (s.respond (resp .ok b 0)) := by
  simp [State.readBy, State.selects, h]

theorem State.writeBy_selected {s : State} {row : Row} {a : Addr} (t : State)
    (h : selectRow s.family .write (ramen s.ctrl) a = some row) : s.writeBy row a t = .next t.done := by
  simp [State.writeBy, State.selects, h]

/-- A read row's access that completes: its row is the selected one, and only the response changes. -/
theorem State.readBy_next {s t : State} {row : Row} {a : Addr} {b : Byte} (h : s.readBy row a b = .next t) :
    selectRow s.family .read (ramen s.ctrl) a = some row ∧ t = s.respond (resp .ok b 0) := by
  unfold State.readBy at h
  split at h
  · next hs => exact ⟨by simpa [State.selects] using hs, by simpa using h.symm⟩
  · cases h

theorem State.writeBy_next {s t u : State} {row : Row} {a : Addr} (h : s.writeBy row a u = .next t) :
    selectRow s.family .write (ramen s.ctrl) a = some row ∧ t = u.done := by
  unfold State.writeBy at h
  split at h
  · next hs => exact ⟨by simpa [State.selects] using hs, by simpa using h.symm⟩
  · cases h

/-- The access runs the row that the address decoder selects. -/
theorem access_selected {dir : Dir} {a : Addr} {v : Byte} {s : State} {row : Row}
    (h : selectRow s.family dir (ramen s.ctrl) a = some row) : access dir a v s = runRow row a v s := by
  simp [access, h]

/-- The run-to check changes no element that the translation reads. -/
@[simp] theorem State.resolve_runToCheck (s : State) (a b : Addr) : (s.runToCheck a).resolve b = s.resolve b := rfl

@[simp] theorem State.memRead_runToCheck (s : State) (a b : Addr) : (s.runToCheck a).memRead b = s.memRead b := by
  unfold State.memRead
  rw [State.resolve_runToCheck]
  cases s.resolve b <;> rfl

/-! ### The result field -/

theorem rval_toNat {n : Nat} (h : n < 2 ^ 24) : (rval n).toNat = n := by
  simpa [rval] using h

/-- All that is known of a count's result field: it is the count, where the count fits. -/
theorem countRval_toNat {n : Nat} (h : n < 2 ^ 24) : (countRval n).toNat = n := by
  rw [countRval, if_pos (by omega), rval_toNat h]

/-! ### The commands at the ports -/

theorem step_idle {s : State} (h : s.inbox = []) : step s = .next s := by
  simp [step, h]

/-- What a step does with a command that keeps the protocol. -/
theorem step_command {s : State} {r : Request} {rest : List Request} (h : s.inbox = r :: rest)
    (hp : protocolRefusal r s = none) :
    step s = match fetchDecode r with
      | .error _ => .next ({ s with inbox := rest } : State).illegalWord
      | .ok i => exec i { s with inbox := rest } := by
  unfold step
  rw [h]
  simp only [hp] <;> rfl

theorem step_refused {s : State} {r : Request} {rest : List Request} {e : Refusal} (h : s.inbox = r :: rest)
    (hp : protocolRefusal r s = some e) : step s = .refused e := by
  simp [step, h, hp]

end Sys2Proof.Machine
end

