-- ==== Sys2Proof/Laws/Cpu.lean ====
section
/-! SUPPORT. Everything a CPU access can do, in one equation for a read and one for a write: the access by the
row that the address decoder selects is the access by `Resolve` (spec/20_memory.md rule R68). -/

set_option linter.unusedSimpArgs false

namespace Sys2Proof.Machine

/-! ### Reading -/

theorem State.memRead_eq (s : State) (a : Addr) : s.memRead a =
    if delegated s.family a then
      match s.family with
      | .noRule => Config.openBus
      | .romOnly => s.rom.get (s.lin a)
      | .sg1000 => s.rom.get (s.lin a)
      | .codemasters => s.rom.get (s.phys a)
      | .korean => s.rom.get (s.phys a)
      | .sega =>
        if Config.segaRegBase ≤ a.toNat then s.segaReg (a.toNat - Config.segaRegBase)
        else if win a = 2 ∧ ramen s.ctrl = true then s.cram.read (s.cramIndex a)
        else s.rom.get (s.phys a)
    else s.map.read a.toNat := by
  unfold State.memRead State.resolve
  split
  · cases s.family <;> simp only [State.placeByte]
    split_ifs <;> rfl
  · rfl

theorem access_read_of {s : State} {row : Row} {a : Addr} {b : Byte}
    (h : selectRow s.family .read (ramen s.ctrl) a = some row)
    (hr : runRow row a 0x00 s = s.readBy row a b) : access .read a 0x00 s = .next (s.respond (resp .ok b 0)) := by
  rw [access_selected h, hr, State.readBy_selected _ h]

theorem access_read (s : State) (a : Addr) :
    access .read a 0x00 s = .next (s.respond (resp .ok (s.memRead a) 0)) := by
  rw [State.memRead_eq]
  unfold delegated Config.directBase Config.segaRegBase
  cases hf : s.family
  · by_cases h : 49152 ≤ a.toNat
    · have h2 : ¬ (a.toNat < 49152) := by omega
      refine access_read_of (row := .noneRDirect) (by rw [hf, selectRow_noRule_read]; simp [h]) ?_
      simp [h2]; rfl
    · have h2 : a.toNat < 49152 := by omega
      refine access_read_of (row := .noneRRest) (by rw [hf, selectRow_noRule_read]; simp [h]) ?_
      simp [h2]; rfl
  · by_cases h : 49152 ≤ a.toNat
    · have h2 : ¬ (a.toNat < 49152) := by omega
      refine access_read_of (row := .romOnlyRDirect) (by rw [hf, selectRow_romOnly_read]; simp [h]) ?_
      simp [h2]; rfl
    · have h2 : a.toNat < 49152 := by omega
      refine access_read_of (row := .romOnlyRRest) (by rw [hf, selectRow_romOnly_read]; simp [h]) ?_
      simp [h2]; rfl
  · by_cases h0 : 65532 ≤ a.toNat
    · have h2 : ¬ (a.toNat < 49152) := by omega
      refine access_read_of (row := .segaRRegs) (by rw [hf, selectRow_sega_read]; simp [h0]) ?_
      simp [h0, h2]; rfl
    by_cases h : 49152 ≤ a.toNat
    · have h2 : ¬ (a.toNat < 49152) := by omega
      refine access_read_of (row := .segaRDirect) (by rw [hf, selectRow_sega_read]; simp [h0, h]) ?_
      simp [h0, h2]; rfl
    have h2 : a.toNat < 49152 := by omega
    by_cases h8 : 32768 ≤ a.toNat
    · have hw : win a = 2 := by unfold win Config.bankSize; omega
      by_cases hc : ramen s.ctrl = true
      · refine access_read_of (row := .segaRWin2Cram) (by rw [hf, selectRow_sega_read]; simp [h0, h, h8, hc]) ?_
        simp [h0, h2, hw, hc]; rfl
      · refine access_read_of (row := .segaRWin2Rom) (by rw [hf, selectRow_sega_read]; simp [h0, h, h8, hc]) ?_
        simp [h0, h2, hw, hc]; rfl
    · have hw : win a ≠ 2 := by unfold win Config.bankSize; omega
      refine access_read_of (row := .segaRWin01) (by rw [hf, selectRow_sega_read]; simp [h0, h, h8]) ?_
      simp [h0, h2, hw]; rfl
  · by_cases h : 49152 ≤ a.toNat
    · have h2 : ¬ (a.toNat < 49152) := by omega
      refine access_read_of (row := .codemastersRDirect) (by rw [hf, selectRow_codemasters_read]; simp [h]) ?_
      simp [h2]; rfl
    · have h2 : a.toNat < 49152 := by omega
      refine access_read_of (row := .codemastersRRest) (by rw [hf, selectRow_codemasters_read]; simp [h]) ?_
      simp [h2]; rfl
  · by_cases h : 49152 ≤ a.toNat
    · have h2 : ¬ (a.toNat < 49152) := by omega
      refine access_read_of (row := .koreanRDirect) (by rw [hf, selectRow_korean_read]; simp [h]) ?_
      simp [h2]; rfl
    · have h2 : a.toNat < 49152 := by omega
      refine access_read_of (row := .koreanRRest) (by rw [hf, selectRow_korean_read]; simp [h]) ?_
      simp [h2]; rfl
  · by_cases h : 49152 ≤ a.toNat
    · have h2 : ¬ (a.toNat < 49152) := by omega
      refine access_read_of (row := .sg1000RDirect) (by rw [hf, selectRow_sg1000_read]; simp [h]) ?_
      simp [h2]; rfl
    · have h2 : a.toNat < 49152 := by omega
      refine access_read_of (row := .sg1000RRest) (by rw [hf, selectRow_sg1000_read]; simp [h]) ?_
      simp [h2]; rfl

theorem exec_read (s : State) (a : Addr) (p : BitVec 16) :
    exec (.read a p) s = .next ((s.runToCheck a).respond (resp .ok (s.memRead a) 0)) := by
  show access .read a 0x00 (s.runToCheck a) = _
  rw [access_read, State.memRead_runToCheck]

/-! ### Writing -/

/-- The state after a CPU write of `v` at `a`, by families: R121 and the write rows of R96. -/
def State.writeEffect (s : State) (a : Addr) (v : Byte) : State :=
  if ¬ delegated s.family a then s.storeMap a v
  else match s.family with
    | .noRule => s
    | .romOnly => s
    | .sg1000 => s
    | .codemasters =>
      if a.toNat = 0 then s.setX0 v else if a.toNat = 0x4000 then s.setX1 v
      else if a.toNat = 0x8000 then s.setX2 v else s
    | .korean => if a.toNat = 0xA000 then s.setX2 v else s
    | .sega =>
      if a.toNat = 0xFFFC then s.setCtrl v else if a.toNat = 0xFFFD then s.setX0 v
      else if a.toNat = 0xFFFE then s.setX1 v else if a.toNat = 0xFFFF then s.setX2 v
      else if 0x8000 ≤ a.toNat ∧ ramen s.ctrl = true then s.storeCram (s.cramIndex a) v else s

theorem access_write_of {s t : State} {row : Row} {a : Addr} {v : Byte}
    (h : selectRow s.family .write (ramen s.ctrl) a = some row)
    (hr : runRow row a v s = s.writeBy row a t) : access .write a v s = .next t.done := by
  rw [access_selected h, hr, State.writeBy_selected _ h]

theorem addr_ne {n : Nat} {a b : BitVec n} (h : a.toNat ≠ b.toNat) : a ≠ b :=
  fun e => h (by rw [e])

theorem access_write (s : State) (a : Addr) (v : Byte) : access .write a v s = .next (s.writeEffect a v).done := by
  have hlt := a.isLt
  cases hf : s.family
  all_goals
    unfold State.writeEffect delegated Config.directBase Config.segaRegBase
    rw [hf]
  · by_cases h : 49152 ≤ a.toNat
    · have h2 : ¬ (a.toNat < 49152) := by omega
      refine access_write_of (row := .noneWDirect) (by rw [hf, selectRow_noRule_write]; simp [h]) ?_
      simp [h2]; rfl
    · have h2 : (a.toNat < 49152) := by omega
      refine access_write_of (row := .noneWRest) (by rw [hf, selectRow_noRule_write]; simp [h]) ?_
      simp [h2]; rfl
  · by_cases h : 49152 ≤ a.toNat
    · have h2 : ¬ (a.toNat < 49152) := by omega
      refine access_write_of (row := .romOnlyWDirect) (by rw [hf, selectRow_romOnly_write]; simp [h]) ?_
      simp [h2]; rfl
    · have h2 : (a.toNat < 49152) := by omega
      refine access_write_of (row := .romOnlyWRest) (by rw [hf, selectRow_romOnly_write]; simp [h]) ?_
      simp [h2]; rfl
  · by_cases h0 : a.toNat = 0xFFFC
    · obtain rfl : a = 0xFFFC#16 := by simpa [BitVec.toNat_eq] using h0
      exact access_write_of (row := .segaWCtrl) (by rw [hf, selectRow_sega_write]; rfl) rfl
    by_cases h1 : a.toNat = 0xFFFD
    · obtain rfl : a = 0xFFFD#16 := by simpa [BitVec.toNat_eq] using h1
      exact access_write_of (row := .segaWX0) (by rw [hf, selectRow_sega_write]; rfl) rfl
    by_cases h2 : a.toNat = 0xFFFE
    · obtain rfl : a = 0xFFFE#16 := by simpa [BitVec.toNat_eq] using h2
      exact access_write_of (row := .segaWX1) (by rw [hf, selectRow_sega_write]; rfl) rfl
    by_cases h3 : a.toNat = 0xFFFF
    · obtain rfl : a = 0xFFFF#16 := by simpa [BitVec.toNat_eq] using h3
      exact access_write_of (row := .segaWX2) (by rw [hf, selectRow_sega_write]; rfl) rfl
    have g0 : a ≠ 0xFFFC#16 := addr_ne h0
    have g1 : a ≠ 0xFFFD#16 := addr_ne h1
    have g2 : a ≠ 0xFFFE#16 := addr_ne h2
    have g3 : a ≠ 0xFFFF#16 := addr_ne h3
    by_cases h : 49152 ≤ a.toNat
    · have h2 : ¬ (a.toNat < 49152) := by omega
      have h4 : ¬ (65532 ≤ a.toNat) := by omega
      refine access_write_of (row := .segaWDirect) (by rw [hf, selectRow_sega_write]; simp [h,g0,g1,g2,g3]) ?_
      simp [h2,h4]; rfl
    have h5 : (a.toNat < 49152) := by omega
    by_cases hc : 0x8000 ≤ a.toNat ∧ ramen s.ctrl = true
    · refine access_write_of (row := .segaWWin2Cram) (by rw [hf, selectRow_sega_write]; simp [h,g0,g1,g2,g3,hc]) ?_
      simp [h0,h1,h2,h3,h5,hc]; rfl
    · refine access_write_of (row := .segaWRest) (by rw [hf, selectRow_sega_write]; simp only [h,g0,g1,g2,g3,hc]; simp) ?_
      simp only [h0,h1,h2,h3,h5,hc]; simp; rfl
  · by_cases h0 : a.toNat = 0
    · obtain rfl : a = 0#16 := by simpa [BitVec.toNat_eq] using h0
      exact access_write_of (row := .codemastersWX0) (by rw [hf, selectRow_codemasters_write]; rfl) rfl
    by_cases h1 : a.toNat = 0x4000
    · obtain rfl : a = 0x4000#16 := by simpa [BitVec.toNat_eq] using h1
      exact access_write_of (row := .codemastersWX1) (by rw [hf, selectRow_codemasters_write]; rfl) rfl
    by_cases h2 : a.toNat = 0x8000
    · obtain rfl : a = 0x8000#16 := by simpa [BitVec.toNat_eq] using h2
      exact access_write_of (row := .codemastersWX2) (by rw [hf, selectRow_codemasters_write]; rfl) rfl
    have g0 : a ≠ 0#16 := addr_ne h0
    have g1 : a ≠ 0x4000#16 := addr_ne h1
    have g2 : a ≠ 0x8000#16 := addr_ne h2
    by_cases h : 49152 ≤ a.toNat
    · have h2 : ¬ (a.toNat < 49152) := by omega
      refine access_write_of (row := .codemastersWDirect) (by rw [hf, selectRow_codemasters_write]; simp [h,g0,g1,g2]) ?_
      simp [h2]; rfl
    · have h5 : (a.toNat < 49152) := by omega
      refine access_write_of (row := .codemastersWRest) (by rw [hf, selectRow_codemasters_write]; simp [h,g0,g1,g2]) ?_
      simp only [h0,h1,h2,h5]; simp; rfl
  · by_cases h0 : a.toNat = 0xA000
    · obtain rfl : a = 0xA000#16 := by simpa [BitVec.toNat_eq] using h0
      exact access_write_of (row := .koreanWX2) (by rw [hf, selectRow_korean_write]; rfl) rfl
    have g0 : a ≠ 0xA000#16 := addr_ne h0
    by_cases h : 49152 ≤ a.toNat
    · have h2 : ¬ (a.toNat < 49152) := by omega
      refine access_write_of (row := .koreanWDirect) (by rw [hf, selectRow_korean_write]; simp [h,g0]) ?_
      simp [h2]; rfl
    · have h5 : (a.toNat < 49152) := by omega
      refine access_write_of (row := .koreanWRest) (by rw [hf, selectRow_korean_write]; simp [h,g0]) ?_
      simp only [h0,h5]; simp; rfl
  · by_cases h : 49152 ≤ a.toNat
    · have h2 : ¬ (a.toNat < 49152) := by omega
      refine access_write_of (row := .sg1000WDirect) (by rw [hf, selectRow_sg1000_write]; simp [h]) ?_
      simp [h2]; rfl
    · have h2 : (a.toNat < 49152) := by omega
      refine access_write_of (row := .sg1000WRest) (by rw [hf, selectRow_sg1000_write]; simp [h]) ?_
      simp [h2]; rfl

theorem exec_write (s : State) (a : Addr) (p : BitVec 16) (v : Byte) :
    exec (.write a p v) s = .next ((s.runToCheck a).writeEffect a v).done := access_write _ _ _

/-- What a CPU write leaves alone, whatever the family. -/
theorem State.writeEffect_frame (s : State) (a : Addr) (v : Byte) :
    s.writeEffect a v = { s with
      map := (s.writeEffect a v).map, cram := (s.writeEffect a v).cram, x0 := (s.writeEffect a v).x0
      x1 := (s.writeEffect a v).x1, x2 := (s.writeEffect a v).x2, ctrl := (s.writeEffect a v).ctrl } := by
  unfold State.writeEffect; split
  · rfl
  · split <;> (try split_ifs) <;> rfl

end Sys2Proof.Machine
end

