-- ==== Sys2Proof/Laws/PerInstr.lean ====
section
/-! SUPPORT. The family `TableRow` of LAWS.json: the code that the encoder gives an instruction is one that the
instruction's own row of spec/opcode_table.json selects (spec/30_encoding.md rule R109). The match and mask
numbers are copied from the table, not from Decode.lean. -/

namespace Sys2Proof.Laws.TableRow

/-- A row of spec/opcode_table.json: its match and mask, and what an `ADDR16` row asks of family, direction and
`CTRL[3]`. -/
inductive Selector
  | command (pat mask : BitVec 56)
  | access (family : Family) (dir : Dir) (pat mask : BitVec 16) (ramen : Option Bool)

/-- The row of an instruction. -/
def rowOf : Instr → Selector
  | .read _ _ => .command 0x00000000000000#56 0xFFFF0000000000#56
  | .write _ _ _ => .command 0x01000000000000#56 0xFFFF0000000000#56
  | .init => .command 0x10000000000000#56 0xFF000000000000#56
  | .reset => .command 0x11000000000000#56 0xFF000000000000#56
  | .loadrom _ _ => .command 0x12000000000000#56 0xFF000000000000#56
  | .setrule _ => .command 0x13000000000000#56 0xFF000000000000#56
  | .getrule => .command 0x14000000000000#56 0xFF000000000000#56
  | .retrieve _ => .command 0x20000000000000#56 0xFFFF0000000000#56
  | .load _ _ => .command 0x21000000000000#56 0xFFFF0000000000#56
  | .statesize => .command 0x30000000000000#56 0xFF000000000000#56
  | .savestate _ => .command 0x31000000000000#56 0xFF000000000000#56
  | .loadstate _ _ => .command 0x32000000000000#56 0xFF000000000000#56
  | .bpadd _ _ => .command 0x40000000000000#56 0xFF000000000000#56
  | .bpremove _ _ => .command 0x41000000000000#56 0xFF000000000000#56
  | .bpcount => .command 0x42000000000000#56 0xFF000000000000#56
  | .bplist _ => .command 0x43000000000000#56 0xFF000000000000#56
  | .runtoset _ _ => .command 0x44000000000000#56 0xFF000000000000#56
  | .runtoclear => .command 0x45000000000000#56 0xFF000000000000#56
  | .getrunto => .command 0x46000000000000#56 0xFF000000000000#56
  | .rombank _ => .command 0x50000000000000#56 0xFF000000000000#56
  | .rambank => .command 0x51000000000000#56 0xFF000000000000#56
  | .peekrom _ => .command 0x52000000000000#56 0xFF000000000000#56
  | .peekcram _ => .command 0x53000000000000#56 0xFF000000000000#56
  | .pokecram _ _ => .command 0x54000000000000#56 0xFF000000000000#56
  | .noneRDirect _ => .access .noRule .read 0xC000#16 0xC000#16 none
  | .noneRRest _ => .access .noRule .read 0x0000#16 0x0000#16 none
  | .noneWDirect _ _ => .access .noRule .write 0xC000#16 0xC000#16 none
  | .noneWRest _ _ => .access .noRule .write 0x0000#16 0x0000#16 none
  | .romOnlyRDirect _ => .access .romOnly .read 0xC000#16 0xC000#16 none
  | .romOnlyRRest _ => .access .romOnly .read 0x0000#16 0x0000#16 none
  | .romOnlyWDirect _ _ => .access .romOnly .write 0xC000#16 0xC000#16 none
  | .romOnlyWRest _ _ => .access .romOnly .write 0x0000#16 0x0000#16 none
  | .sg1000RDirect _ => .access .sg1000 .read 0xC000#16 0xC000#16 none
  | .sg1000RRest _ => .access .sg1000 .read 0x0000#16 0x0000#16 none
  | .sg1000WDirect _ _ => .access .sg1000 .write 0xC000#16 0xC000#16 none
  | .sg1000WRest _ _ => .access .sg1000 .write 0x0000#16 0x0000#16 none
  | .segaRRegs _ => .access .sega .read 0xFFFC#16 0xFFFC#16 none
  | .segaRDirect _ => .access .sega .read 0xC000#16 0xC000#16 none
  | .segaRWin2Cram _ => .access .sega .read 0x8000#16 0xC000#16 (some true)
  | .segaRWin2Rom _ => .access .sega .read 0x8000#16 0xC000#16 (some false)
  | .segaRWin01 _ => .access .sega .read 0x0000#16 0x0000#16 none
  | .segaWCtrl _ => .access .sega .write 0xFFFC#16 0xFFFF#16 none
  | .segaWX0 _ => .access .sega .write 0xFFFD#16 0xFFFF#16 none
  | .segaWX1 _ => .access .sega .write 0xFFFE#16 0xFFFF#16 none
  | .segaWX2 _ => .access .sega .write 0xFFFF#16 0xFFFF#16 none
  | .segaWDirect _ _ => .access .sega .write 0xC000#16 0xC000#16 none
  | .segaWWin2Cram _ _ => .access .sega .write 0x8000#16 0xC000#16 (some true)
  | .segaWRest _ _ => .access .sega .write 0x0000#16 0x0000#16 none
  | .codemastersRDirect _ => .access .codemasters .read 0xC000#16 0xC000#16 none
  | .codemastersRRest _ => .access .codemasters .read 0x0000#16 0x0000#16 none
  | .codemastersWX0 _ => .access .codemasters .write 0x0000#16 0xFFFF#16 none
  | .codemastersWX1 _ => .access .codemasters .write 0x4000#16 0xFFFF#16 none
  | .codemastersWX2 _ => .access .codemasters .write 0x8000#16 0xFFFF#16 none
  | .codemastersWDirect _ _ => .access .codemasters .write 0xC000#16 0xC000#16 none
  | .codemastersWRest _ _ => .access .codemasters .write 0x0000#16 0x0000#16 none
  | .koreanRDirect _ => .access .korean .read 0xC000#16 0xC000#16 none
  | .koreanRRest _ => .access .korean .read 0x0000#16 0x0000#16 none
  | .koreanWX2 _ => .access .korean .write 0xA000#16 0xFFFF#16 none
  | .koreanWDirect _ _ => .access .korean .write 0xC000#16 0xC000#16 none
  | .koreanWRest _ _ => .access .korean .write 0x0000#16 0x0000#16 none

/-- The row selects the code (R95, R109). -/
def Selector.selects : Selector → Code → Prop
  | .command pat mask, .cmd w _ => w &&& mask = pat
  | .access f d pat mask cond, .access f' d' ramen a _ =>
    f' = f ∧ d' = d ∧ a &&& mask = pat ∧ ∀ c, cond = some c → ramen = c
  | .command _ _, .access _ _ _ _ _ => False
  | .access _ _ _ _ _, .cmd _ _ => False

/-- A well-formed instruction's row selects its code. -/
def Statement (i : Instr) : Prop := i.wellFormed = true → (rowOf i).selects (encode i)

/-! ### The masks of the command rows -/

theorem and_topMask (w : CmdWord) (k n : Nat) (hn : k + n = 56) :
    w &&& BitVec.ofNat 56 ((2 ^ n - 1) * 2 ^ k) = BitVec.ofNat 56 (w.toNat / 2 ^ k * 2 ^ k) := by
  apply BitVec.eq_of_toNat_eq
  have hlt : w.toNat < 2 ^ (k + n) := by rw [hn]; exact w.isLt
  have hm : (2 ^ n - 1) * 2 ^ k < 2 ^ 56 := by
    rw [← hn, Nat.pow_add, Nat.mul_comm (2 ^ k)]
    exact Nat.mul_lt_mul_of_pos_right (Nat.sub_lt (Nat.two_pow_pos n) Nat.one_pos) (Nat.two_pow_pos k)
  rw [BitVec.toNat_and, BitVec.toNat_ofNat, BitVec.toNat_ofNat, Nat.mod_eq_of_lt hm,
    and_mask _ _ _ hlt, Nat.mod_eq_of_lt]
  exact Nat.lt_of_le_of_lt (Nat.div_mul_le_self _ _) w.isLt

theorem mkWord_toNat (c : Byte) (a : Num24) (p : BitVec 16) (d : Byte) :
    (mkWord c a p d).toNat = c.toNat * 2 ^ 48 + a.toNat * 2 ^ 24 + p.toNat * 2 ^ 8 + d.toNat := by
  have := c.isLt; have := a.isLt; have := p.isLt; have := d.isLt
  simp only [mkWord, BitVec.toNat_append]
  rw [← Nat.shiftLeft_add_eq_or_of_lt d.isLt, ← Nat.shiftLeft_add_eq_or_of_lt p.isLt,
    ← Nat.shiftLeft_add_eq_or_of_lt a.isLt]
  simp only [Nat.shiftLeft_eq]
  omega

theorem mkWord_code (c : Byte) (a : Num24) (p : BitVec 16) (d : Byte) :
    mkWord c a p d &&& 0xFF000000000000#56 = BitVec.ofNat 56 (c.toNat * 2 ^ 48) := by
  rw [show 0xFF000000000000#56 = BitVec.ofNat 56 ((2 ^ 8 - 1) * 2 ^ 48) by decide, and_topMask _ _ _ rfl,
    mkWord_toNat]
  have := a.isLt; have := p.isLt; have := d.isLt
  exact congrArg (BitVec.ofNat 56) (by omega)

theorem mkWord_low_address (c : Byte) (a : Addr) (p : BitVec 16) (d : Byte) :
    mkWord c (a16 a) p d &&& 0xFFFF0000000000#56 = BitVec.ofNat 56 (c.toNat * 2 ^ 48) := by
  rw [show 0xFFFF0000000000#56 = BitVec.ofNat 56 ((2 ^ 16 - 1) * 2 ^ 40) by decide, and_topMask _ _ _ rfl,
    mkWord_toNat]
  have ha : (a16 a).toNat = a.toNat := by rw [a16, BitVec.toNat_append]; simp
  have := a.isLt; have := p.isLt; have := d.isLt
  rw [ha]
  exact congrArg (BitVec.ofNat 56) (by omega)

theorem mask_window2_of {a : Addr} (h : inWindow2 a = true) : a &&& 0xC000#16 = 0x8000#16 := by
  simp only [inWindow2, Bool.and_eq_true, decide_eq_true_eq] at h
  rw [mask_window2, if_neg (by omega)]
  exact h.1

/-! ### One lemma per instruction -/

theorem read (addr : Addr) (pc : BitVec 16) : Statement (.read addr pc) := by
  intro _; exact mkWord_low_address _ _ _ _

theorem write (addr : Addr) (pc : BitVec 16) (value : Byte) : Statement (.write addr pc value) := by
  intro _; exact mkWord_low_address _ _ _ _

theorem init : Statement .init := by
  intro _; exact mkWord_code _ _ _ _

theorem reset : Statement .reset := by
  intro _; exact mkWord_code _ _ _ _

theorem loadrom (size : Num24) (data : ByteSeq) : Statement (.loadrom size data) := by
  intro _; exact mkWord_code _ _ _ _

theorem setrule (tag : Byte) : Statement (.setrule tag) := by
  intro _; exact mkWord_code _ _ _ _

theorem getrule : Statement .getrule := by
  intro _; exact mkWord_code _ _ _ _

theorem retrieve (addr : Addr) : Statement (.retrieve addr) := by
  intro _; exact mkWord_low_address _ _ _ _

theorem load (addr : Addr) (value : Byte) : Statement (.load addr value) := by
  intro _; exact mkWord_low_address _ _ _ _

theorem statesize : Statement .statesize := by
  intro _; exact mkWord_code _ _ _ _

theorem savestate (bufsize : Num24) : Statement (.savestate bufsize) := by
  intro _; exact mkWord_code _ _ _ _

theorem loadstate (size : Num24) (data : ByteSeq) : Statement (.loadstate size data) := by
  intro _; exact mkWord_code _ _ _ _

theorem bpadd (addr : Num24) (qual : Option Byte) : Statement (.bpadd addr qual) := by
  intro _; exact mkWord_code _ _ _ _

theorem bpremove (addr : Num24) (qual : Option Byte) : Statement (.bpremove addr qual) := by
  intro _; exact mkWord_code _ _ _ _

theorem bpcount : Statement .bpcount := by
  intro _; exact mkWord_code _ _ _ _

theorem bplist (index : Num24) : Statement (.bplist index) := by
  intro _; exact mkWord_code _ _ _ _

theorem runtoset (addr : Num24) (qual : Option Byte) : Statement (.runtoset addr qual) := by
  intro _; exact mkWord_code _ _ _ _

theorem runtoclear : Statement .runtoclear := by
  intro _; exact mkWord_code _ _ _ _

theorem getrunto : Statement .getrunto := by
  intro _; exact mkWord_code _ _ _ _

theorem rombank (window : BitVec 2) : Statement (.rombank window) := by
  intro _; exact mkWord_code _ _ _ _

theorem rambank : Statement .rambank := by
  intro _; exact mkWord_code _ _ _ _

theorem peekrom (offset : Num24) : Statement (.peekrom offset) := by
  intro _; exact mkWord_code _ _ _ _

theorem peekcram (offset : Num24) : Statement (.peekcram offset) := by
  intro _; exact mkWord_code _ _ _ _

theorem pokecram (offset : Num24) (value : Byte) : Statement (.pokecram offset value) := by
  intro _; exact mkWord_code _ _ _ _

theorem noneRDirect (addr : Addr) : Statement (.noneRDirect addr) := fun h => ⟨rfl, rfl, (mask_direct _).mpr (by simpa [Instr.wellFormed, inDirect] using h), by simp⟩

theorem noneRRest (addr : Addr) : Statement (.noneRRest addr) := fun _ => ⟨rfl, rfl, mask_none _, by simp⟩

theorem noneWDirect (addr : Addr) (value : Byte) : Statement (.noneWDirect addr value) := fun h => ⟨rfl, rfl, (mask_direct _).mpr (by simpa [Instr.wellFormed, inDirect] using h), by simp⟩

theorem noneWRest (addr : Addr) (value : Byte) : Statement (.noneWRest addr value) := fun _ => ⟨rfl, rfl, mask_none _, by simp⟩

theorem romOnlyRDirect (addr : Addr) : Statement (.romOnlyRDirect addr) := fun h => ⟨rfl, rfl, (mask_direct _).mpr (by simpa [Instr.wellFormed, inDirect] using h), by simp⟩

theorem romOnlyRRest (addr : Addr) : Statement (.romOnlyRRest addr) := fun _ => ⟨rfl, rfl, mask_none _, by simp⟩

theorem romOnlyWDirect (addr : Addr) (value : Byte) : Statement (.romOnlyWDirect addr value) := fun h => ⟨rfl, rfl, (mask_direct _).mpr (by simpa [Instr.wellFormed, inDirect] using h), by simp⟩

theorem romOnlyWRest (addr : Addr) (value : Byte) : Statement (.romOnlyWRest addr value) := fun _ => ⟨rfl, rfl, mask_none _, by simp⟩

theorem sg1000RDirect (addr : Addr) : Statement (.sg1000RDirect addr) := fun h => ⟨rfl, rfl, (mask_direct _).mpr (by simpa [Instr.wellFormed, inDirect] using h), by simp⟩

theorem sg1000RRest (addr : Addr) : Statement (.sg1000RRest addr) := fun _ => ⟨rfl, rfl, mask_none _, by simp⟩

theorem sg1000WDirect (addr : Addr) (value : Byte) : Statement (.sg1000WDirect addr value) := fun h => ⟨rfl, rfl, (mask_direct _).mpr (by simpa [Instr.wellFormed, inDirect] using h), by simp⟩

theorem sg1000WRest (addr : Addr) (value : Byte) : Statement (.sg1000WRest addr value) := fun _ => ⟨rfl, rfl, mask_none _, by simp⟩

theorem segaRRegs (addr : Addr) : Statement (.segaRRegs addr) := fun h => ⟨rfl, rfl, (mask_regs _).mpr (by simpa [Instr.wellFormed] using h), by simp⟩

theorem segaRDirect (addr : Addr) : Statement (.segaRDirect addr) := fun h => ⟨rfl, rfl, (mask_direct _).mpr (by simp [Instr.wellFormed, inSegaDirect] at h; omega), by simp⟩

theorem segaRWin2Cram (addr : Addr) : Statement (.segaRWin2Cram addr) := fun h => ⟨rfl, rfl, mask_window2_of h, by simp⟩

theorem segaRWin2Rom (addr : Addr) : Statement (.segaRWin2Rom addr) := fun h => ⟨rfl, rfl, mask_window2_of h, by simp⟩

theorem segaRWin01 (addr : Addr) : Statement (.segaRWin01 addr) := fun _ => ⟨rfl, rfl, mask_none _, by simp⟩

theorem segaWCtrl (value : Byte) : Statement (.segaWCtrl value) := fun _ => ⟨rfl, rfl, by decide, by simp⟩

theorem segaWX0 (value : Byte) : Statement (.segaWX0 value) := fun _ => ⟨rfl, rfl, by decide, by simp⟩

theorem segaWX1 (value : Byte) : Statement (.segaWX1 value) := fun _ => ⟨rfl, rfl, by decide, by simp⟩

theorem segaWX2 (value : Byte) : Statement (.segaWX2 value) := fun _ => ⟨rfl, rfl, by decide, by simp⟩

theorem segaWDirect (addr : Addr) (value : Byte) : Statement (.segaWDirect addr value) := fun h => ⟨rfl, rfl, (mask_direct _).mpr (by simp [Instr.wellFormed, inSegaDirect] at h; omega), by simp⟩

theorem segaWWin2Cram (addr : Addr) (value : Byte) : Statement (.segaWWin2Cram addr value) := fun h => ⟨rfl, rfl, mask_window2_of h, by simp⟩

theorem segaWRest (addr : Addr) (value : Byte) : Statement (.segaWRest addr value) := fun _ => ⟨rfl, rfl, mask_none _, by simp⟩

theorem codemastersRDirect (addr : Addr) : Statement (.codemastersRDirect addr) := fun h => ⟨rfl, rfl, (mask_direct _).mpr (by simpa [Instr.wellFormed, inDirect] using h), by simp⟩

theorem codemastersRRest (addr : Addr) : Statement (.codemastersRRest addr) := fun _ => ⟨rfl, rfl, mask_none _, by simp⟩

theorem codemastersWX0 (value : Byte) : Statement (.codemastersWX0 value) := fun _ => ⟨rfl, rfl, by decide, by simp⟩

theorem codemastersWX1 (value : Byte) : Statement (.codemastersWX1 value) := fun _ => ⟨rfl, rfl, by decide, by simp⟩

theorem codemastersWX2 (value : Byte) : Statement (.codemastersWX2 value) := fun _ => ⟨rfl, rfl, by decide, by simp⟩

theorem codemastersWDirect (addr : Addr) (value : Byte) : Statement (.codemastersWDirect addr value) := fun h => ⟨rfl, rfl, (mask_direct _).mpr (by simpa [Instr.wellFormed, inDirect] using h), by simp⟩

theorem codemastersWRest (addr : Addr) (value : Byte) : Statement (.codemastersWRest addr value) := fun _ => ⟨rfl, rfl, mask_none _, by simp⟩

theorem koreanRDirect (addr : Addr) : Statement (.koreanRDirect addr) := fun h => ⟨rfl, rfl, (mask_direct _).mpr (by simpa [Instr.wellFormed, inDirect] using h), by simp⟩

theorem koreanRRest (addr : Addr) : Statement (.koreanRRest addr) := fun _ => ⟨rfl, rfl, mask_none _, by simp⟩

theorem koreanWX2 (value : Byte) : Statement (.koreanWX2 value) := fun _ => ⟨rfl, rfl, by decide, by simp⟩

theorem koreanWDirect (addr : Addr) (value : Byte) : Statement (.koreanWDirect addr value) := fun h => ⟨rfl, rfl, (mask_direct _).mpr (by simpa [Instr.wellFormed, inDirect] using h), by simp⟩

theorem koreanWRest (addr : Addr) (value : Byte) : Statement (.koreanWRest addr value) := fun _ => ⟨rfl, rfl, mask_none _, by simp⟩

end Sys2Proof.Laws.TableRow
end

