-- ==== Sys2Proof/Laws/SaveState.lean ====
section
/-! SUPPORT. The save-state record read byte by byte, its canonical form, when a record is accepted, and what
the two outcomes of LOADSTATE do to each element. A proof cites these and never unfolds `State.corrupt`, whose
memories have tens of thousands of cells. -/

namespace Sys2Proof

theorem Memory.read_append_left {m m' : Memory} {a : Nat} (h : m'.read a = Config.fill) :
    Memory.read (m ++ m') a = m.read a := by
  rw [Memory.read_append]; split
  · rfl
  · next hn => rw [h, Memory.read_of_not_listed]; exact fun c hc e => hn ⟨c, hc, e⟩

theorem Memory.read_append_right {m m' : Memory} {a : Nat} (h : ∀ c ∈ m, c.1 ≠ a) :
    Memory.read (m ++ m') a = m'.read a := by
  rw [Memory.read_append, if_neg]; rintro ⟨c, hc, e⟩; exact h c hc e

theorem Memory.slice_bound {m : Memory} {b l : Nat} : ∀ c ∈ m.slice b l, c.1 < l := by
  intro c hc
  unfold Memory.slice at hc
  simp only [List.mem_filterMap] at hc
  obtain ⟨d, hd, e⟩ := hc
  split at e
  · cases e; simp; omega
  · cases e

theorem Memory.ofBytes_bounds {l : List Byte} {b : Nat} :
    ∀ c ∈ Memory.ofBytes b l, b ≤ c.1 ∧ c.1 < b + l.length :=
  fun c hc => ⟨(Memory.wfFrom_bounds (Memory.wfFrom_ofBytes l b) c hc).1,
    (Memory.wfFrom_bounds (Memory.wfFrom_ofBytes l b) c hc).2⟩

theorem Memory.slice_self {m : Memory} {n : Nat} (h : m.wf n = true) : m.slice 0 n = m := by
  refine Memory.wf_ext (Memory.wf_slice _ _ h) h fun a => ?_
  rw [Memory.read_slice, Nat.zero_add]; split
  · rfl
  · rw [Memory.read_above h (by omega)]

end Sys2Proof

namespace Sys2Proof.Machine

/-! ### The record -/

theorem State.recordRegs_length (s : State) : s.recordRegs.length ≤ 4 := by
  unfold State.recordRegs; cases s.family <;> simp

theorem State.record_map (s : State) (a : Nat) (h : a < 65536) : s.record.get a = s.map.read a := by
  show Memory.read (_ ++ _) a = _
  rw [Memory.read_append_left, Memory.read_slice, if_pos h, Nat.zero_add]
  rw [Memory.read_append_left, Memory.read_ofBytes, if_neg (show ¬ 65536 ≤ a by omega)]
  rw [Memory.read_shift, if_neg (by omega)]

/-- The tag and the register bytes, at offsets 65536 to 65540. -/
theorem State.record_regs (s : State) (i : Nat) (h : i < 5) :
    s.record.get (65536 + i) = (s.family.tag :: s.recordRegs).getD i Config.fill := by
  show Memory.read (_ ++ _) _ = _
  rw [Memory.read_append_right, Memory.read_append_left, Memory.read_ofBytes, if_pos (Nat.le_add_right _ _),
    Nat.add_sub_cancel_left]
  · rw [Memory.read_shift, if_neg (by omega)]
  · intro c hc; have : c.1 < 65536 := Memory.slice_bound c hc; omega

theorem State.record_cram (s : State) (i : Nat) (h : i < 32768) (hf : s.family = .sega) :
    s.record.get (65541 + i) = s.cram.read i := by
  show Memory.read (_ ++ _) _ = _
  rw [Memory.read_append_right, Memory.read_append_right, Memory.read_shift, if_pos (Nat.le_add_right _ _),
    Nat.add_sub_cancel_left]
  · unfold State.recordCram; rw [if_pos hf, Memory.read_slice, if_pos h, Nat.zero_add]
  · intro c hc
    have h1 := Memory.ofBytes_bounds c hc
    have h2 := s.recordRegs_length
    simp only [List.length_cons, Config.mapSize] at h1
    omega
  · intro c hc; have : c.1 < 65536 := Memory.slice_bound c hc; omega

theorem stateSize_bounds (f : Family) : 65537 ≤ stateSize f ∧ stateSize f ≤ 98309 := by
  cases f <;> simp [stateSize]

theorem State.record_wf {s : State} (hm : s.map.wf Config.mapSize = true) (hc : s.cram.wf Config.cramSize = true) :
    s.record.wf = true := by
  show Memory.wfFrom (_ ++ _) 0 (stateSize s.family) = true
  have hsz := stateSize_bounds s.family
  refine Memory.wfFrom_append (mid := 65536) (Memory.wf_slice _ _ hm) ?_ (by omega) (by omega)
  have ho := Memory.wfFrom_ofBytes (s.family.tag :: s.recordRegs) Config.mapSize
  by_cases hf : s.family = .sega
  · refine Memory.wfFrom_append (mid := 65541) ?_ ?_ (by omega) (by simp [hf, stateSize])
    · simpa [State.recordRegs, hf] using ho
    · have := Memory.wfFrom_shift 65541 (Memory.wf_slice 0 Config.cramSize hc)
      simp only [State.recordCram, hf, if_true, stateSize]
      exact this
  · rw [State.recordCram, if_neg hf]
    show Memory.wfFrom (_ ++ []) _ _ = true
    rw [List.append_nil]
    refine Memory.wfFrom_mono ho (Nat.le_refl _) ?_
    simp only [stateSize, State.recordRegs]
    cases hf' : s.family <;> simp_all

theorem State.acceptable_iff (s : State) (q : ByteSeq) :
    s.acceptable q = true ↔ q.size = stateSize s.family ∧ q.get 65536 = s.family.tag := by
  have tag_le : s.family.tag.toNat ≤ 5 := by cases s.family <;> decide
  unfold State.acceptable
  simp only [Bool.and_eq_true, decide_eq_true_eq]
  exact ⟨fun h => ⟨h.1, h.2.2⟩, fun h => ⟨h.1, by rw [h.2]; exact tag_le, h.2⟩⟩

/-! ### LOADSTATE: what the two outcomes do to each element -/

@[simp] theorem State.restore_family (s : State) (r : ByteSeq) : (s.restore r).family = s.family := by
  unfold State.restore; cases s.family <;> rfl
@[simp] theorem State.restore_rom (s : State) (r : ByteSeq) : (s.restore r).rom = s.rom := by
  unfold State.restore; cases s.family <;> rfl
@[simp] theorem State.restore_stage (s : State) (r : ByteSeq) : (s.restore r).stage = s.stage := by
  unfold State.restore; cases s.family <;> rfl
@[simp] theorem State.restore_bp (s : State) (r : ByteSeq) : (s.restore r).bp = s.bp := by
  unfold State.restore; cases s.family <;> rfl
@[simp] theorem State.restore_runtoValid (s : State) (r : ByteSeq) : (s.restore r).runtoValid = s.runtoValid := by
  unfold State.restore; cases s.family <;> rfl
@[simp] theorem State.restore_runtoAddr (s : State) (r : ByteSeq) : (s.restore r).runtoAddr = s.runtoAddr := by
  unfold State.restore; cases s.family <;> rfl
@[simp] theorem State.restore_runtoQual (s : State) (r : ByteSeq) : (s.restore r).runtoQual = s.runtoQual := by
  unfold State.restore; cases s.family <;> rfl
@[simp] theorem State.restore_runtoHit (s : State) (r : ByteSeq) : (s.restore r).runtoHit = s.runtoHit := by
  unfold State.restore; cases s.family <;> rfl
@[simp] theorem State.restore_initialised (s : State) (r : ByteSeq) : (s.restore r).initialised = s.initialised := by
  unfold State.restore; cases s.family <;> rfl
@[simp] theorem State.restore_inbox (s : State) (r : ByteSeq) : (s.restore r).inbox = s.inbox := by
  unfold State.restore; cases s.family <;> rfl
@[simp] theorem State.restore_response (s : State) (r : ByteSeq) : (s.restore r).response = s.response := by
  unfold State.restore; cases s.family <;> rfl
@[simp] theorem State.restore_draws (s : State) (r : ByteSeq) : (s.restore r).draws = s.draws := by
  unfold State.restore; cases s.family <;> rfl
@[simp] theorem State.restore_map (s : State) (r : ByteSeq) :
    (s.restore r).map = r.cells.slice 0 Config.mapSize := by
  unfold State.restore; cases s.family <;> rfl
@[simp] theorem State.corrupt_family (s : State) (r : ByteSeq) : (s.corrupt r).family = s.family := by
  unfold State.corrupt; cases s.family <;> simp only
@[simp] theorem State.corrupt_rom (s : State) (r : ByteSeq) : (s.corrupt r).rom = s.rom := by
  unfold State.corrupt; cases s.family <;> simp only
@[simp] theorem State.corrupt_stage (s : State) (r : ByteSeq) : (s.corrupt r).stage = s.stage := by
  unfold State.corrupt; cases s.family <;> simp only
@[simp] theorem State.corrupt_bp (s : State) (r : ByteSeq) : (s.corrupt r).bp = s.bp := by
  unfold State.corrupt; cases s.family <;> simp only
@[simp] theorem State.corrupt_runtoValid (s : State) (r : ByteSeq) : (s.corrupt r).runtoValid = s.runtoValid := by
  unfold State.corrupt; cases s.family <;> simp only
@[simp] theorem State.corrupt_runtoAddr (s : State) (r : ByteSeq) : (s.corrupt r).runtoAddr = s.runtoAddr := by
  unfold State.corrupt; cases s.family <;> simp only
@[simp] theorem State.corrupt_runtoQual (s : State) (r : ByteSeq) : (s.corrupt r).runtoQual = s.runtoQual := by
  unfold State.corrupt; cases s.family <;> simp only
@[simp] theorem State.corrupt_runtoHit (s : State) (r : ByteSeq) : (s.corrupt r).runtoHit = s.runtoHit := by
  unfold State.corrupt; cases s.family <;> simp only
@[simp] theorem State.corrupt_initialised (s : State) (r : ByteSeq) : (s.corrupt r).initialised = s.initialised := by
  unfold State.corrupt; cases s.family <;> simp only
@[simp] theorem State.corrupt_inbox (s : State) (r : ByteSeq) : (s.corrupt r).inbox = s.inbox := by
  unfold State.corrupt; cases s.family <;> simp only
@[simp] theorem State.corrupt_response (s : State) (r : ByteSeq) : (s.corrupt r).response = s.response := by
  unfold State.corrupt; cases s.family <;> simp only
@[simp] theorem State.corrupt_draws (s : State) (r : ByteSeq) : (s.corrupt r).draws = s.draws + 1 := by
  unfold State.corrupt; cases s.family <;> simp only
@[simp] theorem State.corrupt_map (s : State) (r : ByteSeq) : (s.corrupt r).map = Memory.tabulate Config.mapSize
    fun a => Config.mismatchByte s.draws a (s.map.read a) (r.get a) := by
  unfold State.corrupt; cases s.family <;> simp only

theorem State.corrupt_cram (s : State) (r : ByteSeq) : (s.corrupt r).cram = if s.family = .sega then
    Memory.tabulate Config.cramSize fun c =>
      Config.mismatchByte s.draws (65541 + c) (s.cram.read c) (r.get (65541 + c)) else s.cram := by
  unfold State.corrupt; cases s.family <;> simp

theorem State.restore_cram (s : State) (r : ByteSeq) : (s.restore r).cram =
    if s.family = .sega then r.cells.slice 65541 Config.cramSize else s.cram := by
  unfold State.restore; cases s.family <;> simp

theorem State.restore_regs (s : State) (r : ByteSeq) :
    (s.restore r).x0 = (if s.family = .sega ∨ s.family = .codemasters then r.get 65537 else s.x0) ∧
    (s.restore r).x1 = (if s.family = .sega ∨ s.family = .codemasters then r.get 65538 else s.x1) ∧
    (s.restore r).x2 = (if s.family = .sega ∨ s.family = .codemasters then r.get 65539
      else if s.family = .korean then r.get 65537 else s.x2) ∧
    (s.restore r).ctrl = (if s.family = .sega then r.get 65540 else s.ctrl) := by
  unfold State.restore; cases s.family <;> simp

/-- The registers that a failed LOADSTATE cannot change: those the family's record does not hold. -/
theorem State.corrupt_regs_kept (s : State) (r : ByteSeq) :
    (s.family ≠ .sega → (s.corrupt r).ctrl = s.ctrl) ∧
    (s.family ≠ .sega → s.family ≠ .codemasters → (s.corrupt r).x0 = s.x0 ∧ (s.corrupt r).x1 = s.x1) ∧
    (s.family ≠ .sega → s.family ≠ .codemasters → s.family ≠ .korean → (s.corrupt r).x2 = s.x2) := by
  unfold State.corrupt; cases s.family <;> simp

end Sys2Proof.Machine
end

