-- ==== Sys2Proof/Laws/Step.lean ====
section
/-! SUPPORT. A step, taken apart once: what a command that keeps the protocol is, what a step that answers a next
state has done, and the case analysis on the command word. -/

set_option linter.unusedSimpArgs false

namespace Sys2Proof.Machine

/-- A command word decodes to the command of its code, or is rejected by name: one case for each command, one
for each command with too wide an address, one for the reserved codes. -/
theorem decodeWord_cases (w : CmdWord) (q : ByteSeq) (P : Byte → Except Reject Instr → Prop)
  (read : (aField w).toNat ≤ 0xFFFF → P 0x00 (.ok (.read ((aField w).extractLsb' 0 16) (pField w))))
  (readWide : 0xFFFF < (aField w).toNat → P 0x00 (.error (.wideAddress (aField w))))
  (write : (aField w).toNat ≤ 0xFFFF → P 0x01 (.ok (.write ((aField w).extractLsb' 0 16) (pField w) (dField w))))
  (writeWide : 0xFFFF < (aField w).toNat → P 0x01 (.error (.wideAddress (aField w))))
  (init : P 0x10 (.ok (.init)))
  (reset : P 0x11 (.ok (.reset)))
  (loadrom : P 0x12 (.ok (.loadrom (aField w) q)))
  (setrule : P 0x13 (.ok (.setrule (dField w))))
  (getrule : P 0x14 (.ok (.getrule)))
  (retrieve : (aField w).toNat ≤ 0xFFFF → P 0x20 (.ok (.retrieve ((aField w).extractLsb' 0 16))))
  (retrieveWide : 0xFFFF < (aField w).toNat → P 0x20 (.error (.wideAddress (aField w))))
  (load : (aField w).toNat ≤ 0xFFFF → P 0x21 (.ok (.load ((aField w).extractLsb' 0 16) (dField w))))
  (loadWide : 0xFFFF < (aField w).toNat → P 0x21 (.error (.wideAddress (aField w))))
  (statesize : P 0x30 (.ok (.statesize)))
  (savestate : P 0x31 (.ok (.savestate (aField w))))
  (loadstate : P 0x32 (.ok (.loadstate (aField w) q)))
  (bpadd : P 0x40 (.ok (.bpadd (aField w) (qualOf (pField w)))))
  (bpremove : P 0x41 (.ok (.bpremove (aField w) (qualOf (pField w)))))
  (bpcount : P 0x42 (.ok (.bpcount)))
  (bplist : P 0x43 (.ok (.bplist (aField w))))
  (runtoset : P 0x44 (.ok (.runtoset (aField w) (qualOf (pField w)))))
  (runtoclear : P 0x45 (.ok (.runtoclear)))
  (getrunto : P 0x46 (.ok (.getrunto)))
  (rombank : P 0x50 (.ok (.rombank ((dField w).extractLsb' 0 2))))
  (rambank : P 0x51 (.ok (.rambank)))
  (peekrom : P 0x52 (.ok (.peekrom (aField w))))
  (peekcram : P 0x53 (.ok (.peekcram (aField w))))
  (pokecram : P 0x54 (.ok (.pokecram (aField w) (dField w))))
  (reserved : cmdField w ∉ commandCodes → P (cmdField w) (.error (.reservedCommand (cmdField w)))) :
  P (cmdField w) (decodeWord w q) := by
  have wide : ∀ f : Addr → Instr, 0xFFFF < (aField w).toNat → withAddr16 (aField w) f = .error (.wideAddress (aField w)) := by
    intro f h
    unfold withAddr16; rw [if_neg]; intro e
    have := congrArg BitVec.toNat e
    simp [BitVec.extractLsb'_toNat, Nat.shiftRight_eq_div_pow] at this
    omega
  have nar : ∀ f : Addr → Instr, (aField w).toNat ≤ 0xFFFF → withAddr16 (aField w) f = .ok (f ((aField w).extractLsb' 0 16)) := by
    intro f h
    unfold withAddr16; rw [if_pos]
    apply BitVec.eq_of_toNat_eq
    simp [BitVec.extractLsb'_toNat, Nat.shiftRight_eq_div_pow]
    omega
  by_cases hm : cmdField w ∈ commandCodes
  · unfold decodeWord
    generalize hc : cmdField w = c at hm ⊢
    simp only [commandCodes, List.mem_cons, List.not_mem_nil, or_false] at hm
    rcases hm with h | h | h | h | h | h | h | h | h | h | h | h | h | h | h | h | h | h | h | h | h | h | h | h
    · subst h; rcases Nat.lt_or_ge 0xFFFF (aField w).toNat with x | x
      · have := readWide x; rw [← wide (fun y => .read y (pField w)) x] at this; exact this
      · have := read x; rw [← nar (fun y => .read y (pField w)) x] at this; exact this
    · subst h; rcases Nat.lt_or_ge 0xFFFF (aField w).toNat with x | x
      · have := writeWide x; rw [← wide (fun y => .write y (pField w) (dField w)) x] at this; exact this
      · have := write x; rw [← nar (fun y => .write y (pField w) (dField w)) x] at this; exact this
    · subst h; exact init
    · subst h; exact reset
    · subst h; exact loadrom
    · subst h; exact setrule
    · subst h; exact getrule
    · subst h; rcases Nat.lt_or_ge 0xFFFF (aField w).toNat with x | x
      · have := retrieveWide x; rw [← wide (fun y => .retrieve y) x] at this; exact this
      · have := retrieve x; rw [← nar (fun y => .retrieve y) x] at this; exact this
    · subst h; rcases Nat.lt_or_ge 0xFFFF (aField w).toNat with x | x
      · have := loadWide x; rw [← wide (fun y => .load y (dField w)) x] at this; exact this
      · have := load x; rw [← nar (fun y => .load y (dField w)) x] at this; exact this
    · subst h; exact statesize
    · subst h; exact savestate
    · subst h; exact loadstate
    · subst h; exact bpadd
    · subst h; exact bpremove
    · subst h; exact bpcount
    · subst h; exact bplist
    · subst h; exact runtoset
    · subst h; exact runtoclear
    · subst h; exact getrunto
    · subst h; exact rombank
    · subst h; exact rambank
    · subst h; exact peekrom
    · subst h; exact peekcram
    · subst h; exact pokecram
  · have e : decodeWord w q = .error (.reservedCommand (cmdField w)) := by
      unfold decodeWord
      simp only [commandCodes, List.mem_cons, List.not_mem_nil, or_false, not_or] at hm
      split <;> first | rfl | (exfalso; simp_all)
    rw [e]; exact reserved hm

/-! ### The protocol -/

theorem protocolRefusal_none {s : State} {r : Request} (h : r.Proper)
    (hi : s.initialised = true ∨ cmdField r.word = 0x10) : protocolRefusal r s = none := by
  obtain ⟨h1, h2, h3, h4, h5⟩ := h
  unfold protocolRefusal
  rw [if_neg h1, if_neg (by simpa using h2), if_neg, if_neg, if_neg]
  · rintro (x | x)
    · exact x h4
    · rw [h5] at x; cases x
  · rintro ⟨x, y⟩; rcases hi with hi | hi
    · rw [x] at hi; cases hi
    · exact y hi
  · rintro ⟨x, y⟩; rw [h3 x] at y; cases y

theorem protocolRefusal_payload {s : State} {r : Request} (h : protocolRefusal r s = none) :
    r.payload.size = payloadLength r.word ∧ r.payload.wf = true := by
  unfold protocolRefusal at h
  split_ifs at h
  rename_i h1
  push Not at h1
  exact ⟨h1.1, by simpa using h1.2⟩

theorem protocolRefusal_initialised {s : State} {r : Request} (h : protocolRefusal r s = none) :
    s.initialised = true ∨ cmdField r.word = 0x10 := by
  unfold protocolRefusal at h
  split_ifs at h
  rename_i h1 _
  push Not at h1
  by_cases x : s.initialised = false
  · exact .inr (h1 x)
  · exact .inl (by simpa using x)

/-- A step that took a command and answered a next state: the command kept the protocol, and the state is the
answer to an illegal word or the effect of the instruction. -/
theorem step_next {s t : State} {r : Request} {rest : List Request} (h : s.inbox = r :: rest)
    (hs : step s = .next t) :
    protocolRefusal r s = none ∧
    (match decodeWord r.word r.payload with
      | .error _ => .next ({ s with inbox := rest } : State).illegalWord
      | .ok i => exec i { s with inbox := rest }) = Host.Outcome.next t := by
  cases hp : protocolRefusal r s with
  | some e => rw [step_refused h hp] at hs; cases hs
  | none => rw [step_command h hp] at hs; exact ⟨rfl, hs⟩

end Sys2Proof.Machine
end

