-- ==== Sys2Proof/Tests/Slice0.lean ====
section
/-! SUPPORT. Tests of one step each, and a witness for every statement that has hypotheses. Every expected value
is from spec/: the test vectors of spec/95_test_vectors.md (their ids stand in the comments) and the tables of
spec/30_encoding.md. The image bytes are that file's `PAT(i) = ((i div 8192) * 8 + i mod 8) mod 256`. -/

namespace Sys2Proof.Tests

open Sys2Proof Sys2Proof.Machine

/-! ### Helpers -/

/-- 128KB of `PAT`, at the offsets the tests read (ENC-5). -/
def img128 : ByteSeq := ⟨131072, [(1, 0x01), (5, 0x05), (16383, 0x0F), (16384, 0x10), (32767, 0x1F),
  (32768, 0x20), (32769, 0x21), (49151, 0x2F), (49152, 0x30), (65535, 0x3F), (98304, 0x60), (106496, 0x68),
  (131071, 0x7F)]⟩

/-- 256KB of `PAT`, at the offsets the tests read. -/
def img256 : ByteSeq := ⟨262144, [(16383, 0x0F), (16384, 0x10), (81920, 0x50), (81921, 0x51), (245760, 0xF0)]⟩

/-- 32KB of `PAT`, at the offsets the tests read. -/
def img32 : ByteSeq := ⟨32768, [(16383, 0x0F), (16384, 0x10), (32767, 0x1F)]⟩

/-- 8KB of `PAT`, at the offsets the tests read. -/
def img8 : ByteSeq := ⟨8192, [(5, 0x05), (8191, 0x07)]⟩

/-- A family after INIT, LOADROM, SETRULE and RESET with an image, and the marks of DEC-1 to DEC-6 in `MAP`. -/
def cart (f : Family) (q : ByteSeq) : State :=
  { State.reset with
    family := f, rom := q, stage := q
    x2 := if f = .codemasters then 0x00 else 0x02
    map := [(0xBFFF, 0x11), (0xC000, 0x22), (0xFFFB, 0x33), (0xFFFC, 0x44)] }

def sNone : State := { State.reset with map := [(0xBFFF, 0x11), (0xC000, 0x22), (0xFFFB, 0x33), (0xFFFC, 0x44)] }
def sRom : State := cart .romOnly img32
def sSg : State := cart .sg1000 img8
def sSega : State := cart .sega img128
def sCm : State := cart .codemasters img256
def sKor : State := cart .korean img128

/-- The Sega state of SEGA-10: cartridge RAM bank 1 mapped, with the bytes written there. -/
def sSegaRam : State := { sSega with ctrl := 0x0C, cram := [(0, 0xAA), (16384, 0xBB), (32767, 0xCC)] }

def after : Result → Option State
  | .next t => some t
  | .fault _ => none
  | .refused _ => none

def refusal : Result → Option Refusal
  | .next _ => none
  | .fault _ => none
  | .refused e => some e

/-- The response word of a result (R91). -/
def answer (r : Result) : Option RespWord := (after r).bind fun t => t.response.map Response.word

/-- A field of the next state. -/
def field {α : Type} (f : State → α) (r : Result) : Option α := (after r).map f

/-! ### Well-formed and ill-formed terms: one ill-formed term for each check -/

theorem test_loadrom_payload_short : (Instr.loadrom 3 ⟨2, []⟩).wellFormed = false := by decide
theorem test_loadrom_payload_unsorted : (Instr.loadrom 3 ⟨3, [(1, 7), (0, 7)]⟩).wellFormed = false := by decide
theorem test_loadrom_payload_fill_cell : (Instr.loadrom 3 ⟨3, [(1, 0)]⟩).wellFormed = false := by decide
theorem test_loadrom_payload_outside : (Instr.loadrom 3 ⟨3, [(3, 7)]⟩).wellFormed = false := by decide
theorem test_loadrom_payload_good : (Instr.loadrom 3 ⟨3, [(0, 7), (2, 9)]⟩).wellFormed = true := by decide
theorem test_loadstate_payload_long : (Instr.loadstate 3 ⟨4, []⟩).wellFormed = false := by decide
theorem test_setrule_tag_zero : (Instr.setrule 0x00).wellFormed = false := by decide
theorem test_setrule_tag_six : (Instr.setrule 0x06).wellFormed = false := by decide
theorem test_direct_row_below : (Instr.noneRDirect 0xBFFF).wellFormed = false := by decide
theorem test_rest_row_above : (Instr.romOnlyWRest 0xC000 0x00).wellFormed = false := by decide
theorem test_sega_direct_row_register : (Instr.segaRDirect 0xFFFC).wellFormed = false := by decide
theorem test_sega_registers_row_below : (Instr.segaRRegs 0xFFFB).wellFormed = false := by decide
theorem test_sega_window2_row_window1 : (Instr.segaRWin2Cram 0x7FFF).wellFormed = false := by decide
theorem test_sega_window01_row_window2 : (Instr.segaRWin01 0x8000).wellFormed = false := by decide
theorem test_sega_rest_row_direct : (Instr.segaWRest 0xC000 0x00).wellFormed = false := by decide
theorem test_codemasters_rest_row_trigger : (Instr.codemastersWRest 0x4000 0x00).wellFormed = false := by decide
theorem test_korean_rest_row_register : (Instr.koreanWRest 0xA000 0x00).wellFormed = false := by decide

/-! ### Decoding: a word of every command (R92; the ids of ENC-1 to ENC-23) -/

theorem test_decode_cpu_words :
    decodeWord 0x00004000123400 ByteSeq.empty = .ok (.read 0x4000 0x1234) ∧                 -- ENC-1
    decodeWord 0x0100FFFE012303 ByteSeq.empty = .ok (.write 0xFFFE 0x0123 0x03) := by        -- ENC-2, ENC-3
  decide

theorem test_decode_lifecycle_words :
    decodeWord 0x10000000000000 ByteSeq.empty = .ok .init ∧                                  -- ENC-4
    decodeWord 0x10ABCDEF123456 ByteSeq.empty = .ok .init ∧                                  -- ENC-21
    decodeWord 0x11000000000000 ByteSeq.empty = .ok .reset ∧                                 -- ENC-4
    decodeWord 0x12020000000000 img128 = .ok (.loadrom 131072 img128) ∧                      -- ENC-5
    decodeWord 0x13000000000002 ByteSeq.empty = .ok (.setrule 0x02) ∧                        -- ENC-6
    decodeWord 0x14000000000000 ByteSeq.empty = .ok .getrule := by                           -- ENC-4
  decide

theorem test_decode_direct_and_state_words :
    decodeWord 0x2000FFFE000000 ByteSeq.empty = .ok (.retrieve 0xFFFE) ∧                     -- ENC-7
    decodeWord 0x2100C000000099 ByteSeq.empty = .ok (.load 0xC000 0x99) ∧                    -- ENC-7
    decodeWord 0x30000000000000 ByteSeq.empty = .ok .statesize ∧                             -- ENC-8
    decodeWord 0x31018005000000 ByteSeq.empty = .ok (.savestate 98309) ∧                     -- ENC-8
    decodeWord 0x32018005000000 img8 = .ok (.loadstate 98309 img8) := by                     -- ENC-8
  decide

theorem test_decode_debug_words :
    decodeWord 0x40004000010300 ByteSeq.empty = .ok (.bpadd 0x004000 (some 0x03)) ∧          -- ENC-9
    decodeWord 0x40000038000000 ByteSeq.empty = .ok (.bpadd 0x000038 none) ∧                 -- ENC-9
    decodeWord 0x40004000FF0300 ByteSeq.empty = .ok (.bpadd 0x004000 (some 0x03)) ∧          -- ENC-23
    decodeWord 0x41004000010300 ByteSeq.empty = .ok (.bpremove 0x004000 (some 0x03)) ∧       -- ENC-9
    decodeWord 0x42000000000000 ByteSeq.empty = .ok .bpcount ∧                               -- ENC-10
    decodeWord 0x43000000000000 ByteSeq.empty = .ok (.bplist 0) ∧                            -- ENC-10
    decodeWord 0x44000038000000 ByteSeq.empty = .ok (.runtoset 0x000038 none) ∧              -- ENC-10
    decodeWord 0x45000000000000 ByteSeq.empty = .ok .runtoclear ∧                            -- ENC-10
    decodeWord 0x46000000000000 ByteSeq.empty = .ok .getrunto := by                          -- ENC-10
  decide

theorem test_decode_introspection_words :
    decodeWord 0x50000000000001 ByteSeq.empty = .ok (.rombank 1) ∧                           -- ENC-11
    decodeWord 0x500000000000FE ByteSeq.empty = .ok (.rombank 2) ∧                           -- ENC-22
    decodeWord 0x51000000000000 ByteSeq.empty = .ok .rambank ∧                               -- ENC-11
    decodeWord 0x5200C000000000 ByteSeq.empty = .ok (.peekrom 49152) ∧                       -- ENC-11
    decodeWord 0x53000000000000 ByteSeq.empty = .ok (.peekcram 0) ∧                          -- ENC-11
    decodeWord 0x54004000000077 ByteSeq.empty = .ok (.pokecram 16384 0x77) := by             -- ENC-11
  decide

theorem test_decode_reserved_words :
    decodeWord 0x02000000000000 ByteSeq.empty = .error (.reservedCommand 0x02) ∧             -- ENC-17
    decodeWord 0xFFFFFFFFFFFFFF ByteSeq.empty = .error (.reservedCommand 0xFF) ∧             -- ENC-18
    decodeWord 0x00010000000000 ByteSeq.empty = .error (.wideAddress 0x010000) := by         -- ENC-19
  decide

theorem test_encode_words :
    encode (.write 0xFFFE 0x0123 0x03) = .cmd 0x0100FFFE012303 ByteSeq.empty ∧               -- ENC-2
    encode (.bpadd 0x004000 (some 0x03)) = .cmd 0x40004000010300 ByteSeq.empty ∧             -- ENC-9
    encode (.pokecram 16384 0x77) = .cmd 0x54004000000077 ByteSeq.empty := by                -- ENC-11
  decide

/-! ### The address decoder: every row of R96, at the ends of its range -/

theorem test_rows_none :
    decodeAccess .noRule .read false 0xC000 0x5A = .ok (.noneRDirect 0xC000) ∧
    decodeAccess .noRule .read true 0xBFFF 0x5A = .ok (.noneRRest 0xBFFF) ∧
    decodeAccess .noRule .write false 0xFFFF 0x5A = .ok (.noneWDirect 0xFFFF 0x5A) ∧
    decodeAccess .noRule .write true 0x0000 0x5A = .ok (.noneWRest 0x0000 0x5A) := by
  decide

theorem test_rows_romOnly :
    decodeAccess .romOnly .read false 0xFFFF 0x5A = .ok (.romOnlyRDirect 0xFFFF) ∧
    decodeAccess .romOnly .read true 0xBFFF 0x5A = .ok (.romOnlyRRest 0xBFFF) ∧
    decodeAccess .romOnly .write false 0xC000 0x5A = .ok (.romOnlyWDirect 0xC000 0x5A) ∧
    decodeAccess .romOnly .write true 0x8000 0x5A = .ok (.romOnlyWRest 0x8000 0x5A) := by
  decide

theorem test_rows_sg1000 :
    decodeAccess .sg1000 .read false 0xC000 0x5A = .ok (.sg1000RDirect 0xC000) ∧
    decodeAccess .sg1000 .read true 0x0000 0x5A = .ok (.sg1000RRest 0x0000) ∧
    decodeAccess .sg1000 .write false 0xFFFC 0x5A = .ok (.sg1000WDirect 0xFFFC 0x5A) ∧
    decodeAccess .sg1000 .write true 0xBFFF 0x5A = .ok (.sg1000WRest 0xBFFF 0x5A) := by
  decide

theorem test_rows_sega_read :
    decodeAccess .sega .read false 0xFFFC 0x5A = .ok (.segaRRegs 0xFFFC) ∧
    decodeAccess .sega .read true 0xFFFB 0x5A = .ok (.segaRDirect 0xFFFB) ∧
    decodeAccess .sega .read true 0x8000 0x5A = .ok (.segaRWin2Cram 0x8000) ∧
    decodeAccess .sega .read false 0xBFFF 0x5A = .ok (.segaRWin2Rom 0xBFFF) ∧
    decodeAccess .sega .read true 0x7FFF 0x5A = .ok (.segaRWin01 0x7FFF) := by
  decide

theorem test_rows_sega_write :
    decodeAccess .sega .write false 0xFFFC 0x5A = .ok (.segaWCtrl 0x5A) ∧
    decodeAccess .sega .write false 0xFFFD 0x5A = .ok (.segaWX0 0x5A) ∧
    decodeAccess .sega .write true 0xFFFE 0x5A = .ok (.segaWX1 0x5A) ∧
    decodeAccess .sega .write true 0xFFFF 0x5A = .ok (.segaWX2 0x5A) ∧
    decodeAccess .sega .write true 0xC000 0x5A = .ok (.segaWDirect 0xC000 0x5A) ∧
    decodeAccess .sega .write true 0xBFFF 0x5A = .ok (.segaWWin2Cram 0xBFFF 0x5A) ∧
    decodeAccess .sega .write false 0x8000 0x5A = .ok (.segaWRest 0x8000 0x5A) ∧
    decodeAccess .sega .write true 0x7FFF 0x5A = .ok (.segaWRest 0x7FFF 0x5A) := by
  decide

theorem test_rows_codemasters :
    decodeAccess .codemasters .read false 0xFFFF 0x5A = .ok (.codemastersRDirect 0xFFFF) ∧
    decodeAccess .codemasters .read true 0x8000 0x5A = .ok (.codemastersRRest 0x8000) ∧
    decodeAccess .codemasters .write false 0x0000 0x5A = .ok (.codemastersWX0 0x5A) ∧
    decodeAccess .codemasters .write false 0x4000 0x5A = .ok (.codemastersWX1 0x5A) ∧
    decodeAccess .codemasters .write true 0x8000 0x5A = .ok (.codemastersWX2 0x5A) ∧
    decodeAccess .codemasters .write false 0xFFFC 0x5A = .ok (.codemastersWDirect 0xFFFC 0x5A) ∧
    decodeAccess .codemasters .write false 0x8001 0x5A = .ok (.codemastersWRest 0x8001 0x5A) := by
  decide

theorem test_rows_korean :
    decodeAccess .korean .read false 0xC000 0x5A = .ok (.koreanRDirect 0xC000) ∧
    decodeAccess .korean .read true 0xA000 0x5A = .ok (.koreanRRest 0xA000) ∧
    decodeAccess .korean .write false 0xA000 0x5A = .ok (.koreanWX2 0x5A) ∧
    decodeAccess .korean .write true 0xFFFF 0x5A = .ok (.koreanWDirect 0xFFFF 0x5A) ∧
    decodeAccess .korean .write false 0xA001 0x5A = .ok (.koreanWRest 0xA001 0x5A) := by
  decide

/-! ### READ and WRITE -/

/-- DEC-4: the four boundary reads of the Sega family, as READ commands. -/
theorem test_read_boundaries_sega :
    answer (exec (.read 0xBFFF 0) sSega) = some 0x02F000000 ∧
    answer (exec (.read 0xC000 0) sSega) = some 0x022000000 ∧
    answer (exec (.read 0xFFFB 0) sSega) = some 0x033000000 ∧
    answer (exec (.read 0xFFFC 0) sSega) = some 0x000000000 := by
  decide

/-- DBG-5, DBG-6: the run-to hit, on the address and only under the qualifying bank. -/
theorem test_read_run_to :
    field (·.runtoHit) (exec (.read 0x4000 0) { sSega with runtoValid := true, runtoAddr := 0x4000, runtoQual := some 3 }) =
      some false ∧
    field (·.runtoHit) (exec (.read 0x4000 0)
      { sSega with x1 := 0x03, runtoValid := true, runtoAddr := 0x4000, runtoQual := some 3 }) = some true := by
  decide

/-- SEGA-5, DEC-9: a register write leaves `MAP` alone, a direct write the registers. -/
theorem test_write_sega :
    field (fun t => (t.x1, t.map)) (exec (.write 0xFFFE 0x0123 0x03) sSega) = some (0x03, sSega.map) ∧
    field (fun t => (t.map.read 0xFFFB, t.ctrl)) (exec (.write 0xFFFB 0 0x5A) sSega) = some (0x5A, 0x00) := by
  decide

/-- DBG-7: a WRITE hits an unqualified target and still takes effect. -/
theorem test_write_run_to :
    field (fun t => (t.runtoHit, t.x1))
      (exec (.write 0xFFFE 0 0x01) { sSega with x1 := 0x07, runtoValid := true, runtoAddr := 0xFFFE }) =
        some (true, 0x01) := by
  decide

/-! ### Lifecycle -/

/-- LIFE-1. -/
theorem test_init : field (fun t => (t.family, t.rom.size, t.x2)) (exec .init sSegaRam) = some (.noRule, 0, 0x02) ∧
    field (fun t => (t.cram, t.map)) (exec .init sSegaRam) = some ([], []) := by decide
/-- LIFE-8, LIFE-11. -/
theorem test_reset : field (fun t => (t.map, t.ctrl, t.x1, t.cram)) (exec .reset { sSegaRam with x1 := 0x03 }) =
    some ([], 0x00, 0x01, sSegaRam.cram) ∧ field (·.x2) (exec .reset { sCm with x2 := 0x05 }) = some 0x00 := by decide
/-- LIFE-2. -/
theorem test_reset_no_rule : answer (exec .reset sNone) = some 0x400000000 := by decide
/-- LIFE-3, LIFE-4. -/
theorem test_loadrom : field (·.stage) (exec (.loadrom 8192 img8) sNone) = some img8 ∧
    answer (exec (.loadrom 12288 ⟨12288, []⟩) sNone) = some 0x100000000 := by decide
/-- LIFE-4. -/
theorem test_setrule_granularity : answer (exec (.setrule 0x02) { sNone with stage := img8 }) = some 0x200000000 ∧
    field (·.family) (exec (.setrule 0x05) { sNone with stage := img8 }) = some .sg1000 := by decide
/-- LIFE-7, LIFE-10. -/
theorem test_setrule_again :
    field (fun t => (t.x1, t.ctrl)) (exec (.setrule 0x02) { sSegaRam with x1 := 0x03 }) = some (0x01, 0x00) ∧
    field (fun t => (t.cram, t.map)) (exec (.setrule 0x02) sSegaRam) = some ([], sSega.map) := by decide
/-- LIFE-13. -/
theorem test_getrule : answer (exec .getrule sSega) = some 0x002000000 := by decide

/-! ### Direct access and introspection -/

/-- DEC-4: the shadow byte. -/
theorem test_retrieve : answer (exec (.retrieve 0xFFFC) sSega) = some 0x044000000 := by decide
/-- CM-8, DIR-2. -/
theorem test_load : field (fun t => (t.map.read 0, t.x0)) (exec (.load 0x0000 0x0F) sCm) = some (0x0F, 0x00) ∧
    field (fun t => (t.map.read 0xFFFC, t.ctrl)) (exec (.load 0xFFFC 0x08) sSega) = some (0x08, 0x00) := by decide
/-- SEGA-4, UNB-3: a banked and an unbanked family. -/
theorem test_rombank : answer (exec (.rombank 2) { sSega with x2 := 0x0A }) = some 0x000008000 ∧
    answer (exec (.rombank 2) { sRom with rom := ⟨24576, []⟩ }) = some 0x000002000 := by decide
/-- KOR-5, LIFE-2: window 3 is answered before the missing rule. -/
theorem test_rombank_window3 : answer (exec (.rombank 3) sNone) = some 0x700000000 ∧
    answer (exec (.rombank 0) sNone) = some 0x400000000 := by decide
/-- SEGA-10, SEGA-12. -/
theorem test_rambank : answer (exec .rambank sSegaRam) = some 0x001004000 ∧
    answer (exec .rambank { sSega with ctrl := 0x04 }) = some 0x000004000 := by decide
/-- DIR-6, ENC-15. -/
theorem test_peekrom : answer (exec (.peekrom 0x01FFFF) sSega) = some 0x07F000000 ∧
    answer (exec (.peekrom 0x020000) sSega) = some 0x7FF000000 := by decide
/-- SEGA-10, DIR-8, DIR-9. -/
theorem test_peekcram : answer (exec (.peekcram 32767) sSegaRam) = some 0x0CC000000 ∧
    answer (exec (.peekcram 32768) sSegaRam) = some 0x7FF000000 ∧
    answer (exec (.peekcram 0) sCm) = some 0x7FF000000 := by decide
/-- DIR-7, DIR-8. -/
theorem test_pokecram : field (·.cram) (exec (.pokecram 16384 0x77) sSega) = some [(16384, 0x77)] ∧
    answer (exec (.pokecram 32768 0x01) sSega) = some 0x700000000 := by decide

/-! ### Save state -/

/-- SS-2, SS-5. -/
theorem test_statesize : answer (exec .statesize sSega) = some 0x000018005 ∧
    answer (exec .statesize sKor) = some 0x000010002 := by decide
/-- ENC-13. -/
theorem test_savestate_small : answer (exec (.savestate 98308) sSega) = some 0x600018005 := by decide
/-- SS-4: the length, and the tag and register bytes. -/
theorem test_savestate_record : field (fun t => t.response.map fun r => (r.stream.size, r.stream.get 65536, r.stream.get 65537,
      r.stream.get 65538, r.stream.get 65539))
    (exec (.savestate 65540) { sCm with x0 := 0x0F, x1 := 0x07, x2 := 0x15 }) =
    some (some (65540, 0x03, 0x0F, 0x07, 0x15)) := by decide
/-- SS-5. -/
theorem test_loadstate : field (fun t => (t.x2, t.map, t.ctrl)) (exec (.loadstate 65538
      ⟨65538, [(65535, 0x03), (65536, 0x04), (65537, 0x0E)]⟩) sKor) = some (0x0E, [(65535, 0x03)], 0x00) := by decide
/-- SS-10: a RomOnly record is not an SG1000 record. -/
theorem test_loadstate_foreign : sSg.acceptable ⟨65537, [(0xD000, 0x12), (65536, 0x01)]⟩ = false ∧
    sRom.acceptable ⟨65537, [(0xD000, 0x12), (65536, 0x01)]⟩ = true := by decide

/-! ### Debug -/

/-- DBG-1: the duplicate. -/
theorem test_bpadd_duplicate : field (fun t => (t.bp, t.response.map Response.word))
    (exec (.bpadd 0x004000 (some 3)) { sSega with bp := [⟨0x4000, some 3⟩] }) =
    some ([⟨0x4000, some 3⟩], some 0x000000000) := by decide
/-- DBG-2: an address above 0xFFFF. -/
theorem test_bpadd_out_of_range : answer (exec (.bpadd 0x010000 none) sSega) = some 0x700000000 := by decide
/-- DBG-2: the qualifier is part of the entry; the order of the rest stays. -/
theorem test_bpremove : answer (exec (.bpremove 0x004000 none) { sSega with bp := [⟨0x4000, some 3⟩] }) = some 0x700000000 ∧
    field (·.bp) (exec (.bpremove 0x004000 (some 3)) { sSega with bp := [⟨0x4000, some 3⟩, ⟨0x0038, none⟩] }) =
      some [⟨0x0038, none⟩] := by decide
/-- DBG-2. -/
theorem test_bpcount : answer (exec .bpcount { sSega with bp := [⟨0x4000, some 3⟩] }) = some 0x000000001 := by decide
/-- ENC-16, DBG-1. -/
theorem test_bplist : answer (exec (.bplist 0) { sSega with bp := [⟨0x4000, some 3⟩] }) = some 0x003014000 ∧
    answer (exec (.bplist 1) { sSega with bp := [⟨0x4000, some 3⟩] }) = some 0x700000000 := by decide
/-- DBG-11. -/
theorem test_runtoset : field (fun t => (t.runtoValid, t.runtoAddr, t.runtoHit)) (exec (.runtoset 0x000040 none)
      { sSega with runtoValid := true, runtoAddr := 0x0038, runtoHit := true }) = some (true, 0x0040, false) ∧
    answer (exec (.runtoset 0x010000 none) sSega) = some 0x700000000 := by decide
/-- DBG-9: the address and the qualifier stay. -/
theorem test_runtoclear : field (fun t => (t.runtoValid, t.runtoAddr, t.runtoQual)) (exec .runtoclear
      { sSega with runtoValid := true, runtoAddr := 0xC000, runtoQual := some 0 }) = some (false, 0xC000, some 0) := by decide
/-- ENC-16, DBG-5: the hit is reported and cleared with the target. -/
theorem test_getrunto : field (fun t => (t.response.map Response.word, t.runtoValid, t.runtoHit)) (exec .getrunto
      { sSega with runtoValid := true, runtoAddr := 0x0038, runtoHit := true }) = some (some 0x000060038, false, false) := by decide
/-- DBG-6: valid, qualified, not hit. -/
theorem test_getrunto_armed : field (fun t => (t.response.map Response.word, t.runtoValid)) (exec .getrunto
      { sSega with runtoValid := true, runtoAddr := 0x4000, runtoQual := some 3 }) = some (some 0x003034000, true) := by decide

/-! ### The address-decode rows -/

/-- DEC-1, DEC-7, DEC-8. -/
theorem test_none_rows :
    answer (exec (.noneRDirect 0xC000) sNone) = some 0x022000000 ∧
    answer (exec (.noneRRest 0xBFFF) sNone) = some 0x0FF000000 ∧
    field (·.map.read 0xC000) (exec (.noneWDirect 0xC000 0x5A) sNone) = some 0x5A ∧
    field (·.map) (exec (.noneWRest 0xBFFF 0x5A) sNone) = some sNone.map := by decide
/-- DEC-2, UNB-2. -/
theorem test_romOnly_rows :
    answer (exec (.romOnlyRDirect 0xFFFB) sRom) = some 0x033000000 ∧
    answer (exec (.romOnlyRRest 0xBFFF) sRom) = some 0x00F000000 ∧
    field (·.map.read 0xC000) (exec (.romOnlyWDirect 0xC000 0x01) sRom) = some 0x01 ∧
    field (fun t => (t.map, t.rom, t.x2)) (exec (.romOnlyWRest 0x8000 0x09) sRom) = some (sRom.map, img32, 0x02) := by decide
/-- DEC-3, UNB-5, UNB-6. -/
theorem test_sg1000_rows :
    answer (exec (.sg1000RDirect 0xFFFC) sSg) = some 0x044000000 ∧
    answer (exec (.sg1000RRest 0x2005) sSg) = some 0x005000000 ∧
    field (fun t => (t.map.read 0xFFFC, t.ctrl)) (exec (.sg1000WDirect 0xFFFC 0x08) sSg) = some (0x08, 0x00) ∧
    field (fun t => (t.map, t.rom)) (exec (.sg1000WRest 0x8000 0xFF) sSg) = some (sSg.map, img8) := by decide
/-- SEGA-2, SEGA-10, SEGA-4, DEC-4. -/
theorem test_sega_read_rows :
    answer (exec (.segaRRegs 0xFFFF) { sSega with x2 := 0x0A }) = some 0x00A000000 ∧
    answer (exec (.segaRDirect 0xFFFB) sSega) = some 0x033000000 ∧
    answer (exec (.segaRWin2Cram 0xBFFF) sSegaRam) = some 0x0CC000000 ∧
    answer (exec (.segaRWin2Rom 0x8001) { sSega with x2 := 0x0A }) = some 0x021000000 ∧
    answer (exec (.segaRWin01 0x7FFF) { sSega with x1 := 0x03 }) = some 0x03F000000 := by decide
/-- DEC-10, SEGA-3, SEGA-2, SEGA-4. -/
theorem test_sega_register_rows :
    field (fun t => (t.ctrl, t.map)) (exec (.segaWCtrl 0x5A) sSega) = some (0x5A, sSega.map) ∧
    field (·.x0) (exec (.segaWX0 0x05) sSega) = some 0x05 ∧
    field (·.x1) (exec (.segaWX1 0x03) sSega) = some 0x03 ∧
    field (·.x2) (exec (.segaWX2 0x0A) sSega) = some 0x0A := by decide
/-- DEC-9, SEGA-10, SEGA-8. -/
theorem test_sega_store_rows :
    field (·.map.read 0xFFFB) (exec (.segaWDirect 0xFFFB 0x5A) sSega) = some 0x5A ∧
    field (·.cram) (exec (.segaWWin2Cram 0x8000 0xBB) { sSega with ctrl := 0x0C }) = some [(16384, 0xBB)] ∧
    field (fun t => (t.cram, t.map)) (exec (.segaWRest 0x8000 0xAA) sSega) = some ([], sSega.map) := by decide
/-- CM-2 to CM-7, DEC-5. -/
theorem test_codemasters_rows :
    answer (exec (.codemastersRDirect 0xFFFC) sCm) = some 0x044000000 ∧
    answer (exec (.codemastersRRest 0x8000) { sCm with x2 := 0x15 }) = some 0x050000000 ∧
    field (·.x0) (exec (.codemastersWX0 0x0F) sCm) = some 0x0F ∧
    field (·.x1) (exec (.codemastersWX1 0x07) sCm) = some 0x07 ∧
    field (fun t => (t.x2, t.rom)) (exec (.codemastersWX2 0x05) sCm) = some (0x05, img256) ∧
    field (fun t => (t.map.read 0xFFFC, t.ctrl)) (exec (.codemastersWDirect 0xFFFC 0x08) sCm) = some (0x08, 0x00) ∧
    field (·.x2) (exec (.codemastersWRest 0x8001 0x07) sCm) = some 0x00 := by decide
/-- KOR-2 to KOR-4, DEC-6. -/
theorem test_korean_rows :
    answer (exec (.koreanRDirect 0xC000) sKor) = some 0x022000000 ∧
    answer (exec (.koreanRRest 0xA000) { sKor with x2 := 0x06 }) = some 0x068000000 ∧
    field (·.x2) (exec (.koreanWX2 0x06) sKor) = some 0x06 ∧
    field (fun t => (t.map.read 0xFFFF, t.x2)) (exec (.koreanWDirect 0xFFFF 0x03) sKor) = some (0x03, 0x02) ∧
    field (·.x2) (exec (.koreanWRest 0x8000 0x09) sKor) = some 0x02 := by decide
/-- A row that the decoder does not select (log entry 12). -/
theorem test_row_not_selected : refusal (exec (.segaRWin2Cram 0x8000) sSega) = some (.rowNotSelected .segaRWin2Cram) ∧
    refusal (exec (.segaRWin2Rom 0x8000) sSegaRam) = some (.rowNotSelected .segaRWin2Rom) := by decide

/-! ### Steps -/

/-- The memories after reset are in canonical form (R35). -/
theorem test_reset_memories : State.reset.map.wf 65536 = true ∧ State.reset.cram.wf 32768 = true := by decide

/-- ENC-17: a reserved word is answered `ILLEGAL_CMD`. -/
theorem test_step_reserved : answer (step { sSega with inbox := [wordRequest 0x02000000000000] }) = some 0x500000000 := by decide
/-- ENC-19: no run-to check is made for an illegal READ. -/
theorem test_step_wide_read : field (fun t => (t.response.map Response.word, t.runtoHit))
    (step { sSega with runtoValid := true, inbox := [wordRequest 0x00010000000000] }) = some (some 0x500000000, false) := by decide
/-- ENC-20. -/
theorem test_step_setrule_tags : answer (step { sSega with inbox := [wordRequest 0x13000000000000] }) = some 0x500000000 ∧
    answer (step { sSega with inbox := [wordRequest 0x13000000000006] }) = some 0x500000000 := by decide
/-- R304 (b): READ on the host port. -/
theorem test_step_wrong_port : refusal (step { sSega with inbox := [⟨.host, .quiescent, 0x00004000000000, ByteSeq.empty⟩] }) =
    some .wrongPort := by decide
/-- P1 steps 8 and 9, one command each; a step takes the oldest command only. -/
theorem test_step_order : field (fun t => (t.x1, t.inbox)) (step { sSega with
      inbox := [wordRequest 0x0100FFFE012303, wordRequest 0x00004000000000] }) =
    some (0x03, [wordRequest 0x00004000000000]) := by decide
/-- The first step after reset runs the command placed there (S7, log entry 2). -/
theorem test_fetch_word : answer (step (State.reset.withFetchWord 56 0x30000000000000)) = some 0x000010001 := by decide
/-- The first step after reset runs a READ of the address of an `ADDR16` row (CPU-1, log entry 11). -/
theorem test_fetch_address : answer (step (State.reset.withFetchWord 16 0x0000)) = some 0x0FF000000 ∧
    decodeTableWord 16 0xC000 = some (.noneRDirect 0xC000) := by decide

/-! ### Witnesses: for each statement with hypotheses, a state and operands that meet all of them -/

/-- The Sega state with one command waiting. -/
def sWith (w : CmdWord) : State := { sSega with inbox := [wordRequest w] }

theorem proper_wordRequest (w : CmdWord) : (wordRequest w).Proper where
  alone := by simp [wordRequest]
  onPort := rfl
  quiet := fun _ => rfl
  payload := ⟨rfl, rfl⟩

theorem next_of_after {r : Result} (h : (after r).isSome = true) : ∃ t, r = .next t := by
  cases r with
  | next t => exact ⟨t, rfl⟩
  | fault e => cases h
  | refused e => cases h

/-- A fact about the next state, seen through one decidable test. -/
theorem next_of_field {r : Result} {f : State → Bool} (h : field f r = some true) : ∃ t, r = .next t ∧ f t = true := by
  cases r with
  | next t => exact ⟨t, rfl, by simpa [field, after] using h⟩
  | fault e => cases h
  | refused e => cases h

/-- A cartridge state of 128KB has the invariant in a banked family. -/
theorem sSega_inv : sSega.Inv where
  mapWf := by decide
  cramWf := by decide
  romWf := by decide
  stageWf := by decide
  romFits := fun _ => by decide
  stageSize := by decide
  koreanHardwired := fun h => by cases h
  unusedPowerOn := fun h => by rcases h with h | h | h <;> cases h
  noCtrl := fun h => by rcases h with h | h <;> cases h
  cramZero := fun h => absurd rfl h
  hitArmed := fun h => by cases h
  bpBound := ⟨Nat.zero_le _, List.nodup_nil⟩

theorem sKor_inv : sKor.Inv where
  mapWf := by decide
  cramWf := by decide
  romWf := by decide
  stageWf := by decide
  romFits := fun _ => by decide
  stageSize := by decide
  koreanHardwired := fun _ => ⟨rfl, rfl⟩
  unusedPowerOn := fun h => by rcases h with h | h | h <;> cases h
  noCtrl := fun _ => rfl
  cramZero := fun _ _ => rfl
  hitArmed := fun h => by cases h
  bpBound := ⟨Nat.zero_le _, List.nodup_nil⟩

/-- The ends of every range of `wellFormed`. -/
theorem witness_DecodeInvertsEncode :
    (∀ i ∈ [Instr.setrule 1, .setrule 5, .loadrom 3 ⟨3, [(0, 7), (2, 9)]⟩, .loadstate 0 ⟨0, []⟩, .read 0xFFFF 0xFFFF,
      .rombank 3, .bpadd 0xFFFFFF (some 0xFF), .noneRDirect 0xC000, .noneWDirect 0xFFFF 1, .romOnlyRRest 0xBFFF,
      .sg1000WRest 0x0000 1], i.wellFormed = true) ∧
    (∀ i ∈ [Instr.segaRRegs 0xFFFC, .segaRDirect 0xFFFB, .segaRWin2Cram 0x8000, .segaRWin2Rom 0xBFFF, .segaRWin01 0x7FFF,
      .segaWCtrl 9, .segaWDirect 0xC000 1, .segaWWin2Cram 0xBFFF 1, .segaWRest 0xBFFF 1, .codemastersWRest 0x8001 1,
      .codemastersWX2 1, .koreanWRest 0xA001 1, .koreanWRest 0xBFFF 1, .koreanWX2 1], i.wellFormed = true) := by
  decide

/-- A legal READ, an illegal word, an INIT before the first INIT, and no command. -/
theorem witness_StepRunsTheDecodedInstruction :
    ((sWith 0x0000FFFF000000).inbox = [wordRequest 0x0000FFFF000000] ∧ (wordRequest 0x0000FFFF000000).Proper ∧
      sSega.initialised = true ∧ decodeWord 0x0000FFFF000000 ByteSeq.empty = .ok (.read 0xFFFF 0)) ∧
    ((wordRequest 0x00010000000000).Proper ∧
      decodeWord 0x00010000000000 ByteSeq.empty = .error (.wideAddress 0x010000)) ∧
    ((wordRequest 0x10000000000000).Proper ∧ cmdField (wordRequest 0x10000000000000).word = 0x10) ∧ sSega.inbox = [] :=
  ⟨⟨rfl, proper_wordRequest _, rfl, by decide⟩, ⟨proper_wordRequest _, by decide⟩, ⟨proper_wordRequest _, by decide⟩, rfl⟩

/-- One state and one request for each of the violations (a) to (e). -/
theorem witness_ProtocolViolationsAreRefused :
    (∃ (s : State) (r : Request), s.inbox = [r] ∧ s.initialised = false ∧ cmdField r.word ≠ 0x10) ∧
    (∃ (s : State) (r : Request), s.inbox = [r] ∧ r.port = .host ∧ cmdField r.word = 0x01) ∧
    (∃ (s : State) (r : Request), s.inbox = [r] ∧ r.port = .cpu ∧ cmdField r.word ≠ 0x00 ∧ cmdField r.word ≠ 0x01) ∧
    (∃ (s : State) (r : Request), s.inbox = [r] ∧ r.port = .host ∧ r.timing = .midInstruction) ∧
    (∃ (s : State) (r : Request), s.inbox = [r] ∧ cmdField r.word = 0x32 ∧ r.payload.size ≠ (aField r.word).toNat) ∧
    (∃ (s : State) (r : Request), s.inbox = [r] ∧ r.timing = .overlapping) :=
  ⟨⟨{ sWith 0x11000000000000 with initialised := false }, wordRequest 0x11000000000000, by decide⟩,
    ⟨{ sSega with inbox := [⟨.host, .quiescent, 0x01C00000000000, .empty⟩] }, _, rfl, by decide⟩,
    ⟨{ sSega with inbox := [⟨.cpu, .quiescent, 0x02000000000000, .empty⟩] }, _, rfl, by decide⟩,
    ⟨{ sSega with inbox := [⟨.host, .midInstruction, 0x11000000000000, .empty⟩] }, _, rfl, by decide⟩,
    ⟨{ sSega with inbox := [⟨.host, .quiescent, 0x32000001000000, .empty⟩] }, _, rfl, by decide⟩,
    ⟨{ sSega with inbox := [⟨.cpu, .overlapping, 0x00000000000000, .empty⟩] }, _, rfl, by decide⟩⟩

theorem witness_ProperCommandIsAnswered :
    (sWith 0x0100FFFF000000).inbox = [wordRequest 0x0100FFFF000000] ∧ (wordRequest 0x0100FFFF000000).Proper ∧
    sSega.initialised = true ∧ (cmdField 0x0100FFFF000000).toNat ≤ 1 ∧ (aField 0x0100FFFF000000).toNat ≤ 0xFFFF :=
  ⟨rfl, proper_wordRequest _, rfl, by decide, by decide⟩

/-- Each form of R102, and the legal words at its edges. -/
theorem witness_IllegalWordsAreAnswered :
    (sWith 0x02000000000000).inbox = [wordRequest 0x02000000000000] ∧ (wordRequest 0x02000000000000).Proper ∧
    sSega.initialised = true ∧ IllegalWord 0x02000000000000 ∧ IllegalWord 0x21010000000000 ∧
    IllegalWord 0x13000000000000 ∧ IllegalWord 0x13000000000006 ∧
    ¬ IllegalWord 0x2100FFFF000000 ∧ ¬ IllegalWord 0x13000000000005 :=
  ⟨rfl, proper_wordRequest _, rfl, .inl (by decide), .inr (.inl (by decide)), .inr (.inr (by decide)),
    .inr (.inr (by decide)), by unfold IllegalWord; decide, by unfold IllegalWord; decide⟩

/-- A state and an address at the edge of every clause. -/
theorem witness_ReadReturnsTheResolvedByte :
    (0xC000 ≤ (0xFFFB : Addr).toNat ∧ (sSega.family = .sega → (0xFFFB : Addr).toNat < 0xFFFC)) ∧
    ((0xBFFF : Addr).toNat < 0xC000 ∧ sNone.family = .noRule) ∧
    (sRom.family = .romOnly ∧ sSg.family = .sg1000) ∧
    (sSega.family = .sega ∧ (0xFFFC : Addr).toNat = 0xFFFC) ∧
    (sSegaRam.family = .sega ∧ 0x8000 ≤ (0x8000 : Addr).toNat ∧ (0x8000 : Addr).toNat < 0xC000 ∧
      sSegaRam.ctrl.getLsbD 3 = true) ∧
    ((sSegaRam.family = .sega ∧ ¬ (0x8000 ≤ (0x7FFF : Addr).toNat ∧ sSegaRam.ctrl.getLsbD 3 = true)) ∧
      (sSega.family = .sega ∧ ¬ (0x8000 ≤ (0x8000 : Addr).toNat ∧ sSega.ctrl.getLsbD 3 = true)) ∧
      sCm.family = .codemasters ∧ sKor.family = .korean) := by
  decide

theorem witness_PcOperandHasNoEffect : (0x00 : Byte) = 0x00 ∨ (0x00 : Byte) = 0x01 := by decide

/-- Two states that differ in every debug register. -/
theorem sameMachine_debug (s : State) (bp : List Breakpoint) (v : Bool) (a : Addr) (q : Option Byte) (h : Bool) :
    s.SameMachine { s with bp := bp, runtoValid := v, runtoAddr := a, runtoQual := q, runtoHit := h } :=
  ⟨rfl, rfl, rfl, rfl, rfl, rfl, rfl, rfl, rfl⟩

theorem witness_ReadIsPure :
    sSega.SameMachine { sSega with bp := [⟨0x4000, some 3⟩], runtoValid := true, runtoAddr := 0x4000, runtoQual := none
                                   runtoHit := true } :=
  sameMachine_debug ..

theorem witness_ShadowBytesAreInvisible :
    ((0xBFFF : Addr).toNat < 0xC000) ∧ (sSega.family = .sega ∧ 0xFFFC ≤ (0xFFFC : Addr).toNat) ∧
    ¬ ((0xFFFB : Addr).toNat < 0xC000 ∨ (sSega.family = .sega ∧ 0xFFFC ≤ (0xFFFB : Addr).toNat)) ∧
    (sSegaRam.map = sSega.map ∧ sSegaRam.family = sSega.family) := by
  decide

theorem witness_ResolvedOffsetsAreInBounds :
    sSega.Inv ∧ sSega.resolve 0xBFFF = .romCell 49151 ∧ sSega.resolve 0xFFFF = .regCell 3 ∧
    State.reset.resolve 0xBFFF = .openBus :=
  ⟨sSega_inv, by decide, by decide, by decide⟩

theorem witness_BankSelectTakesEffectAtOnce :
    (0 < 3 ∧ (0x3FFF : Addr).toNat / 16384 = 0) ∧ (2 < 3 ∧ (0x8000 : Addr).toNat / 16384 = 2) ∧
    (sSega.family = .sega ∧ sSega.ctrl.getLsbD 3 = false) ∧ sCm.family = .codemasters ∧ sKor.family = .korean := by
  decide

/-- The row of a state that selects it, and one of another family. -/
theorem witness_RowCompletesExactlyWhereSelected :
    (∀ q ∈ addrTable, ∃ fam c b, decodeAccess fam q.dir c b 0x5A = .ok (q.row.instr b 0x5A)) ∧
    (∃ q ∈ addrTable, ∀ b, decodeAccess sNone.family q.dir (sNone.ctrl.getLsbD 3) b 0x5A ≠ .ok (q.row.instr 0xFFFC 0x5A)) := by
  constructor
  · intro q hq
    refine ⟨q.family, q.row == .segaRWin2Cram || q.row == .segaWWin2Cram,
      if q.row == .segaRDirect || q.row == .segaWDirect then 0xFFFB else
        if q.row == .segaRWin01 then 0x7FFF else
        if q.row == .noneRRest || q.row == .noneWRest || q.row == .romOnlyRRest || q.row == .romOnlyWRest ||
          q.row == .sg1000RRest || q.row == .sg1000WRest || q.row == .codemastersRRest || q.row == .codemastersWRest ||
          q.row == .koreanRRest || q.row == .koreanWRest then 0xBFFF else q.pat, ?_⟩
    revert q
    decide
  · refine ⟨⟨.segaRRegs, .sega, .read, 0xFFFC, 0xFFFC, none⟩, by decide, fun b => ?_⟩
    show decodeAccess .noRule .read false b 0x5A ≠ .ok (.segaRRegs 0xFFFC)
    rw [decodeAccess, selectRow_noRule_read]
    by_cases h : 0xC000 ≤ b.toNat <;> simp [Row.instr, h]

theorem witness_DirectReadRows :
    0xC000 ≤ (0xC000 : Addr).toNat ∧ 0xC000 ≤ (0xFFFB : Addr).toNat ∧ (0xFFFB : Addr).toNat < 0xFFFC ∧
    sNone.family = .noRule ∧ sRom.family = .romOnly ∧ sSg.family = .sg1000 ∧ sSega.family = .sega ∧
    sCm.family = .codemasters ∧ sKor.family = .korean := by
  decide

theorem witness_DirectWriteRows :
    0xC000 ≤ (0xFFFF : Addr).toNat ∧ 0xC000 ≤ (0xFFFB : Addr).toNat ∧ (0xFFFB : Addr).toNat < 0xFFFC ∧
    sNone.family = .noRule ∧ sRom.family = .romOnly ∧ sSg.family = .sg1000 ∧ sSega.family = .sega ∧
    sCm.family = .codemasters ∧ sKor.family = .korean := by
  decide

theorem witness_UnbankedReadRows :
    (0xBFFF : Addr).toNat < 0xC000 ∧ sNone.family = .noRule ∧ sRom.family = .romOnly ∧ sSg.family = .sg1000 ∧
    49152 ≤ (⟨49152, []⟩ : ByteSeq).size := by
  decide

theorem witness_IgnoredWriteRows :
    ((0xBFFF : Addr).toNat < 0xC000 ∧ sNone.family = .noRule ∧ sRom.family = .romOnly ∧ sSg.family = .sg1000) ∧
    (sSega.family = .sega ∧ sSega.ctrl.getLsbD 3 = false) ∧
    (sSegaRam.family = .sega ∧ ¬ 0x8000 ≤ (0x7FFF : Addr).toNat) ∧
    (sCm.family = .codemasters ∧ (0x8001 : Addr).toNat < 0xC000 ∧ (0x8001 : Addr).toNat ≠ 0x0000 ∧
      (0x8001 : Addr).toNat ≠ 0x4000 ∧ (0x8001 : Addr).toNat ≠ 0x8000) ∧
    (sKor.family = .korean ∧ (0xA001 : Addr).toNat < 0xC000 ∧ (0xA001 : Addr).toNat ≠ 0xA000) := by
  decide

theorem witness_SegaReadRows :
    sSega.family = .sega ∧ (0x7FFF : Addr).toNat < 0x8000 ∧
    (0x8000 ≤ (0x8000 : Addr).toNat ∧ (0x8000 : Addr).toNat < 0xC000 ∧ sSega.ctrl.getLsbD 3 = false) ∧
    (sSegaRam.family = .sega ∧ 0x8000 ≤ (0xBFFF : Addr).toNat ∧ (0xBFFF : Addr).toNat < 0xC000 ∧
      sSegaRam.ctrl.getLsbD 3 = true) ∧
    0xFFFC ≤ (0xFFFC : Addr).toNat := by
  decide

theorem witness_SegaRegisterWriteRows : sSega.family = .sega := by decide

theorem witness_SegaCartridgeRamWriteRow :
    sSegaRam.family = .sega ∧ 0x8000 ≤ (0x8000 : Addr).toNat ∧ (0x8000 : Addr).toNat < 0xC000 ∧
    sSegaRam.ctrl.getLsbD 3 = true := by
  decide

theorem witness_CodemastersRows : sCm.family = .codemasters ∧ (0xBFFF : Addr).toNat < 0xC000 := by decide

theorem witness_KoreanRows : sKor.family = .korean ∧ (0xBFFF : Addr).toNat < 0xC000 ∧ sKor.Inv :=
  ⟨rfl, by decide, sKor_inv⟩

theorem witness_ResetClearsMapAndRegisters : sNone.family = .noRule ∧ sCm.family ≠ .noRule := by decide

theorem witness_LoadromStagesTheImage :
    (img8.wf = true ∧ img8.size = (8192 : Num24).toNat ∧
      (8192 ≤ (8192 : Num24).toNat ∧ (8192 : Num24).toNat ≤ 4194304 ∧ (8192 : Num24).toNat % 8192 = 0)) ∧
    ((⟨4194304, []⟩ : ByteSeq).wf = true ∧ (⟨4194304, []⟩ : ByteSeq).size = (4194304 : Num24).toNat ∧
      (8192 ≤ (4194304 : Num24).toNat ∧ (4194304 : Num24).toNat ≤ 4194304 ∧ (4194304 : Num24).toNat % 8192 = 0)) ∧
    ((⟨4202496, []⟩ : ByteSeq).size = (4202496 : Num24).toNat ∧ ¬ (8192 ≤ (4202496 : Num24).toNat ∧
      (4202496 : Num24).toNat ≤ 4194304 ∧ (4202496 : Num24).toNat % 8192 = 0)) ∧
    img8.size ≠ (8193 : Num24).toNat := by
  decide

theorem witness_SetruleInstallsTheImage :
    (Family.korean ≠ .noRule ∧ 0 < sSega.stage.size ∧ sSega.stage.size % 16384 = 0) ∧
    (Family.sg1000 ≠ .noRule ∧ 0 < sSg.stage.size ∧ sSg.stage.size % 8192 = 0) ∧
    ¬ (0 < sSg.stage.size ∧ sSg.stage.size % 16384 = 0) ∧ ¬ (0 < sNone.stage.size ∧ sNone.stage.size % 8192 = 0) := by
  decide

theorem witness_PeekromReturnsTheImageByte :
    (0x01FFFF : Num24).toNat < sSega.rom.size ∧ sSega.rom.size ≤ (0x020000 : Num24).toNat := by
  decide

theorem witness_PeekcramAndPokecram :
    (sSega.family = .sega ∧ (32767 : Num24).toNat < 32768) ∧
    ¬ (sSega.family = .sega ∧ (32768 : Num24).toNat < 32768) ∧ ¬ (sCm.family = .sega ∧ (0 : Num24).toNat < 32768) := by
  decide

theorem witness_SavestateStreamsTheRecord :
    (98308 : Num24).toNat < stateSize sSega.family ∧ stateSize sSega.family ≤ (98309 : Num24).toNat := by
  decide

/-- An acceptable Sega record. -/
def recSega : ByteSeq := ⟨98309, [(65535, 0x03), (65536, 0x02), (65540, 0x08), (98308, 0x09)]⟩

theorem witness_LoadstateRestoresTheRecord :
    recSega.wf = true ∧ recSega.size = (98309 : Num24).toNat ∧ (98309 : Num24).toNat = stateSize sSega.family ∧
    recSega.get 65536 = sSega.family.tag := by
  decide

/-- The wrong length, the wrong tag, and a payload that is not the length announced. -/
theorem witness_FailedLoadstateTouchesOnlyTheRecord :
    recSega.wf = true ∧
    (recSega.size = (98309 : Num24).toNat ∧
      ¬ ((98309 : Num24).toNat = stateSize sKor.family ∧ recSega.get 65536 = sKor.family.tag)) ∧
    ((⟨65538, [(65536, 0x02)]⟩ : ByteSeq).size = (65538 : Num24).toNat ∧
      ¬ ((65538 : Num24).toNat = stateSize sKor.family ∧
        (⟨65538, [(65536, 0x02)]⟩ : ByteSeq).get 65536 = sKor.family.tag)) ∧
    recSega.size ≠ (98308 : Num24).toNat := by
  decide

/-- Another state of the same cartridge: other bytes in the map, another bank in window 2. -/
def sKor2 : State := { sKor with map := [(0xC000, 0x99)], x2 := 0x06 }

theorem sKor2_inv : sKor2.Inv where
  mapWf := by decide
  cramWf := by decide
  romWf := by decide
  stageWf := by decide
  romFits := fun _ => by decide
  stageSize := by decide
  koreanHardwired := fun _ => ⟨rfl, rfl⟩
  unusedPowerOn := fun h => by rcases h with h | h | h <;> cases h
  noCtrl := fun _ => rfl
  cramZero := fun _ _ => rfl
  hitArmed := fun h => by cases h
  bpBound := ⟨Nat.zero_le _, List.nodup_nil⟩

/-- Two different states of one cartridge. -/
theorem witness_SaveThenLoadRoundTrip :
    sKor.Inv ∧ sKor2.Inv ∧ sKor2.family = sKor.family ∧ sKor2.rom = sKor.rom ∧
    stateSize sKor.family ≤ (65538 : Num24).toNat ∧ sKor2.map ≠ sKor.map ∧ sKor2.x2 ≠ sKor.x2 :=
  ⟨sKor_inv, sKor2_inv, rfl, rfl, by decide, by decide, by decide⟩

/-- A breakpoint table at its capacity, and one that is not. -/
theorem witness_BpaddAppendsOneEntry :
    (0xFFFF < (0x010000 : Num24).toNat) ∧
    ((0x00FFFF : Num24).toNat ≤ 0xFFFF ∧ (⟨BitVec.ofNat 16 (0x00FFFF : Num24).toNat, none⟩ : Breakpoint) ∈
      ([⟨0xFFFF, none⟩] : List Breakpoint)) ∧
    (∃ s : State, (⟨BitVec.ofNat 16 (0x00FFFF : Num24).toNat, some 0x03⟩ : Breakpoint) ∉ s.bp ∧
      s.bp.length = Config.bpMax) ∧
    (∃ s : State, (⟨BitVec.ofNat 16 (0x00FFFF : Num24).toNat, some 0x03⟩ : Breakpoint) ∉ s.bp ∧
      s.bp.length ≠ Config.bpMax) := by
  refine ⟨by decide, by decide, ⟨{ sSega with bp := List.replicate Config.bpMax ⟨0xFFFF, none⟩ }, ?_, by simp⟩,
    ⟨{ sSega with bp := List.replicate (Config.bpMax + 1) ⟨0xFFFF, none⟩ }, ?_, by simp⟩⟩ <;>
  · intro h
    exact absurd (List.eq_of_mem_replicate h) (by decide)

theorem witness_BpremoveRemovesOneEntry :
    (0xFFFF < (0x010000 : Num24).toNat) ∧ (0x00FFFF : Num24).toNat ≤ 0xFFFF ∧
    (⟨BitVec.ofNat 16 (0x00FFFF : Num24).toNat, none⟩ : Breakpoint) ∉ ([⟨0xFFFF, some 3⟩] : List Breakpoint) ∧
    (([⟨0x38, none⟩, ⟨0xFFFF, none⟩] : List Breakpoint).Nodup ∧ ([⟨0x38, none⟩, ⟨0xFFFF, none⟩] : List Breakpoint) =
      [⟨0x38, none⟩] ++ ⟨BitVec.ofNat 16 (0x00FFFF : Num24).toNat, none⟩ :: []) := by
  decide

theorem witness_BpcountAndBplistReportTheList :
    ([⟨0x38, none⟩] : List Breakpoint).length < 2 ^ 24 ∧
    ([⟨0x38, none⟩] : List Breakpoint).length ≤ (1 : Num24).toNat ∧
    (0 : Num24).toNat < ([⟨0x38, none⟩] : List Breakpoint).length := by
  decide

theorem witness_RuntosetAndRuntoclear :
    0xFFFF < (0x010000 : Num24).toNat ∧ (0x00FFFF : Num24).toNat ≤ 0xFFFF := by
  decide

/-- The commands of the second clause do answer a next state. -/
theorem witness_RunToHitExactlyOnAMatch :
    (∃ t, exec (.retrieve 0xFFFF) sSega = .next t) ∧ (∃ t, exec (.load 0xFFFF 1) sSega = .next t) ∧
    (∃ t, exec (.peekrom 0) sSega = .next t) ∧ (∃ t, exec (.peekcram 0) sSega = .next t) ∧
    (∃ t, exec (.pokecram 0 1) sSega = .next t) ∧ (∃ t, exec (.loadstate 98309 recSega) sSega = .next t) :=
  ⟨⟨_, rfl⟩, ⟨_, rfl⟩, ⟨_, rfl⟩, ⟨_, rfl⟩, ⟨_, rfl⟩, next_of_after (by decide)⟩

theorem witness_DebugCommandsKeepTheMachine :
    (∃ t, step (sWith 0x44004000000000) = .next t) ∧ (∃ t, step (sWith 0x46000000000000) = .next t) ∧
    0x40 ≤ (cmdField 0x44004000000000).toNat ∧ (cmdField 0x46000000000000).toNat ≤ 0x46 :=
  ⟨next_of_after (by decide), next_of_after (by decide), by decide, by decide⟩

theorem witness_DebugStateNeverInfluencesTheMachine :
    (∃ t, step (sWith 0x00004000000000) = .next t) ∧
    ((sWith 0x00004000000000).SameMachine
      { sWith 0x00004000000000 with bp := [], runtoValid := true, runtoAddr := 0x4000, runtoQual := none, runtoHit := false }) ∧
    (cmdField 0x00004000000000).toNat < 0x40 ∧ 0x46 < (cmdField 0x50000000000000).toNat :=
  ⟨next_of_after (by decide), sameMachine_debug .., by decide, by decide⟩

theorem witness_EveryStepKeepsTheInvariant : sSega.Inv ∧ (sWith 0x0100FFFE000003).Inv ∧
    ∃ t, step (sWith 0x0100FFFE000003) = .next t :=
  ⟨sSega_inv, ⟨sSega_inv.1, sSega_inv.2, sSega_inv.3, sSega_inv.4, sSega_inv.5, sSega_inv.6, sSega_inv.7, sSega_inv.8,
    sSega_inv.9, sSega_inv.10, sSega_inv.11, sSega_inv.12⟩, next_of_after (by decide)⟩

/-- Every element does change under some command. -/
theorem witness_EveryElementHasOnlyItsWriters :
    (∃ t, step (sWith 0x2100C000000099) = .next t ∧ decide (t.map ≠ sSega.map) = true) ∧
    (∃ t, step (sWith 0x13000000000004) = .next t ∧ decide (t.family ≠ sSega.family) = true) ∧
    (∃ t, step (sWith 0x10000000000000) = .next t ∧ decide (t.rom ≠ sSega.rom ∧ t.stage ≠ sSega.stage) = true) ∧
    (∃ t, step (sWith 0x0100FFFC000008) = .next t ∧ decide (t.ctrl ≠ sSega.ctrl) = true) ∧
    (∃ t, step (sWith 0x54007FFF000001) = .next t ∧ decide (t.cram ≠ sSega.cram) = true) ∧
    (∃ t, step { sSega with bp := [⟨0x38, none⟩], inbox := [wordRequest 0x41000038000000] } = .next t ∧
      decide (t.bp ≠ [⟨0x38, none⟩]) = true) ∧
    (∃ t, step (sWith 0x44004000000000) = .next t ∧
      decide (t.runtoValid ≠ sSega.runtoValid ∧ t.runtoAddr ≠ sSega.runtoAddr) = true) ∧
    (∃ t, step { sSega with runtoValid := true, inbox := [wordRequest 0x00000000000000] } = .next t ∧
      decide (t.runtoHit = true ∧ sSega.runtoHit = false) = true) ∧
    (∃ t, step { sSega with runtoHit := true, inbox := [wordRequest 0x46000000000000] } = .next t ∧
      decide (t.runtoHit = false) = true) :=
  ⟨next_of_field (by decide), next_of_field (by decide), next_of_field (by decide), next_of_field (by decide),
    next_of_field (by decide), next_of_field (by decide), next_of_field (by decide), next_of_field (by decide),
    next_of_field (by decide)⟩

theorem witness_KoreanWindowsZeroAndOneAreFixed :
    (∃ s, s.Inv ∧ s.inbox = [wordRequest 0x0100A000000003] ∧ s.family = .korean ∧ ∃ t, step s = .next t) ∧
    cmdField 0x0100A000000003 ≠ 0x13 ∧ cmdField 0x0100A000000003 ≠ 0x10 ∧ (0x7FFF : Addr).toNat < 0x8000 :=
  ⟨⟨{ sKor with inbox := [wordRequest 0x0100A000000003] },
    ⟨sKor_inv.1, sKor_inv.2, sKor_inv.3, sKor_inv.4, sKor_inv.5, sKor_inv.6, sKor_inv.7, sKor_inv.8,
      sKor_inv.9, sKor_inv.10, sKor_inv.11, sKor_inv.12⟩, rfl, rfl, next_of_after (by decide)⟩, by decide⟩

/-- RESET, a WRITE that is not into cartridge RAM, a successful LOADSTATE and SETRULE, and INIT. -/
theorem witness_CartridgeRamLifetime :
    (∃ t, step (sWith 0x11000000000000) = .next t ∧ t.response.isSome = true) ∧
    (∃ t, step (sWith 0x0100C000000001) = .next t ∧ t.response.isSome = true) ∧
    (∀ c, sSega.resolve (BitVec.ofNat 16 (aField 0x0100C000000001).toNat) ≠ .cramCell c) ∧
    (∃ t, step { sSega with inbox := [⟨.host, .quiescent, 0x32018005000000, recSega⟩] } = .next t ∧
      decide (t.response = some (resp .ok 0x00 0)) = true) ∧
    (∃ t, step (sWith 0x13000000000003) = .next t ∧ decide (t.response = some (resp .ok 0x00 0)) = true) ∧
    (∃ t, step (sWith 0x10000000000000) = .next t ∧ t.response.isSome = true) :=
  ⟨next_of_field (by decide), next_of_field (by decide), fun c h => (by cases h), next_of_field (by decide),
    next_of_field (by decide), next_of_field (by decide)⟩

end Sys2Proof.Tests
end

section
/-! What every command answers: the statuses R266 lets it return, that its meaning completes with one of them, and
from that the two statements about a step that takes a proper command (O9, O7). -/

namespace Sys2Proof

/-- A command of R92 whose payload, where it has one, is the one its word announces (R93, R304 (d)). -/
def Instr.isProperCommand : Instr → Bool
  | .loadrom n data | .loadstate n data => payloadOk n data
  | .read _ _ | .write _ _ _ | .init | .reset | .setrule _ | .getrule | .retrieve _ | .load _ _ | .statesize
  | .savestate _ | .bpadd _ _ | .bpremove _ _ | .bpcount | .bplist _ | .runtoset _ _ | .runtoclear | .getrunto
  | .rombank _ | .rambank | .peekrom _ | .peekcram _ | .pokecram _ _ => true
  | _ => false

/-- The statuses an instruction can answer with, from R266's column 'raised by'; a SETRULE with an illegal tag is an
illegal word (R102 (c), R271). Every other instruction answers `OK` alone. -/
def Instr.statuses : Instr → List Machine.Status
  | .reset => [.ok, .noRule]
  | .loadrom _ _ => [.ok, .invalidImage]
  | .setrule tag => match Family.ofTag tag with
    | none | some .noRule => [.illegalCmd]
    | some _ => [.ok, .unsupportedImage]
  | .savestate _ => [.ok, .bufferTooSmall]
  | .loadstate _ _ => [.ok, .stateMismatch]
  | .rombank _ => [.ok, .noRule, .ignored]
  | .bpadd _ _ | .bpremove _ _ | .bplist _ | .runtoset _ _ | .peekrom _ | .peekcram _ | .pokecram _ _ =>
    [.ok, .ignored]
  | _ => [.ok]

end Sys2Proof

namespace Sys2Proof.Machine

/-! ### A state that holds an answer -/

/-- The block has answered the command before `rest`: it is initialised, and its response has a status of `sts`. -/
structure State.Answers (t : State) (rest : List Request) (sts : List Status) : Prop where
  taken : t.inbox = rest
  initialised : t.initialised = true
  answered : ∃ q, t.response = some q ∧ q.status ∈ sts

/-- Ending a command with a response answers it; the status is looked up in the instruction's list. -/
theorem State.answers_respond {u : State} {q : Response} {rest : List Request} {sts : List Status}
    (hin : u.inbox = rest) (hi : u.initialised = true) (hq : q.status ∈ sts := by simp [Instr.statuses, resp]) :
    (u.respond q).Answers rest sts :=
  ⟨hin, hi, q, rfl, hq⟩

/-! ### Every command is answered -/

@[simp] theorem State.writeEffect_inbox (s : State) (a : Addr) (v : Byte) : (s.writeEffect a v).inbox = s.inbox := by
  rw [s.writeEffect_frame a v]

@[simp] theorem State.writeEffect_initialised (s : State) (a : Addr) (v : Byte) :
    (s.writeEffect a v).initialised = s.initialised := by
  rw [s.writeEffect_frame a v]

theorem exec_init_answers (s : State) :
    ∃ t, exec .init s = .next t ∧ t.Answers s.inbox Instr.init.statuses :=
  ⟨_, rfl, State.answers_respond rfl rfl⟩

theorem setRule_answers {s : State} (hi : s.initialised = true) (fam : Family) :
    (setRule fam s).Answers s.inbox [.ok, .unsupportedImage] := by
  unfold setRule
  split_ifs <;> exact State.answers_respond rfl hi

theorem exec_setrule_answers {s : State} (hi : s.initialised = true) (tag : Byte) :
    ∃ t, exec (.setrule tag) s = .next t ∧ t.Answers s.inbox (Instr.setrule tag).statuses := by
  refine ⟨_, rfl, ?_⟩
  simp only [Instr.statuses]
  rcases Family.ofTag tag with _ | (_ | _)
  case none | some.noRule => exact State.answers_respond rfl hi
  all_goals exact setRule_answers hi _

/-- The meaning of a proper command in an initialised block completes with a status that R266 allows it. -/
theorem exec_answers {i : Instr} {s : State} (hc : i.isProperCommand = true) (hi : s.initialised = true) :
    ∃ t, exec i s = .next t ∧ t.Answers s.inbox i.statuses := by
  cases i with
  | read a p => exact ⟨_, exec_read s a p, State.answers_respond rfl hi⟩
  | write a p v =>
    exact ⟨_, exec_write s a p v, State.answers_respond (by simp) (by simpa using hi)⟩
  | init => exact exec_init_answers s
  | setrule tag => exact exec_setrule_answers hi tag
  | loadrom n data =>
    rw [show exec (.loadrom n data) s = _ from if_pos hc]
    refine ⟨_, rfl, ?_⟩
    split_ifs <;> exact State.answers_respond rfl hi
  | loadstate n data =>
    rw [show exec (.loadstate n data) s = _ from if_pos hc]
    refine ⟨_, rfl, ?_⟩
    split_ifs
    · exact State.answers_respond (s.restore_inbox data) ((s.restore_initialised data).trans hi)
    · exact State.answers_respond (s.corrupt_inbox data) ((s.corrupt_initialised data).trans hi)
  | getrunto => exact ⟨_, rfl, State.answers_respond s.observeRunTo_inbox (s.observeRunTo_initialised.trans hi)⟩
  | getrule | retrieve | load | statesize | bpcount | runtoclear => exact ⟨_, rfl, State.answers_respond rfl hi⟩
  | reset | savestate | bpadd | bpremove | runtoset | pokecram =>
    refine ⟨_, rfl, ?_⟩
    split_ifs <;> exact State.answers_respond rfl hi
  | rambank | peekrom | peekcram =>
    refine ⟨_, rfl, State.answers_respond rfl hi ?_⟩
    split_ifs <;> simp [Instr.statuses, resp]
  | bplist =>
    refine ⟨_, rfl, ?_⟩
    split <;> exact State.answers_respond rfl hi
  | rombank =>
    refine ⟨_, rfl, ?_⟩
    split_ifs
    · exact State.answers_respond rfl hi
    · split <;> exact State.answers_respond rfl hi
  | _ => cases hc

/-! ### What the decoder gives a proper command -/

theorem payloadLength_announced {w : CmdWord} (h : cmdField w = 0x12 ∨ cmdField w = 0x32) :
    payloadLength w = (aField w).toNat := by
  unfold payloadLength
  rcases h with h | h
  · rw [if_pos h]
  · rw [if_pos h, ite_self]

/-- A word with the payload it announces decodes, if at all, to a proper command. -/
theorem decodeWord_isProperCommand {w : CmdWord} {data : ByteSeq}
    (hp : data.size = payloadLength w ∧ data.wf = true) :
    ∀ i, decodeWord w data = .ok i → i.isProperCommand = true := by
  have announced : cmdField w = 0x12 ∨ cmdField w = 0x32 → payloadOk (aField w) data = true := fun hc =>
    (payloadOk_iff _ _).mpr ⟨by rw [hp.1, payloadLength_announced hc], hp.2⟩
  revert announced
  apply decodeWord_cases w data fun c d =>
    (c = 0x12 ∨ c = 0x32 → payloadOk (aField w) data = true) → ∀ i, d = .ok i → i.isProperCommand = true
  case loadrom => rintro announced _ ⟨⟩; exact announced (.inl rfl)
  case loadstate => rintro announced _ ⟨⟩; exact announced (.inr rfl)
  case readWide | writeWide | retrieveWide | loadWide | reserved => exact fun _ _ _ hd => nomatch hd
  case read | write | retrieve | load => rintro _ _ _ ⟨⟩; rfl
  all_goals rintro _ _ ⟨⟩; rfl

/-- A READ or WRITE of a 16-bit address decodes to an instruction that can answer `OK` alone. -/
theorem decodeWord_access {w : CmdWord} (data : ByteSeq) (hc : (cmdField w).toNat ≤ 1)
    (ha : (aField w).toNat ≤ 0xFFFF) : ∃ i, decodeWord w data = .ok i ∧ i.statuses = [.ok] := by
  revert hc
  apply decodeWord_cases w data fun c d => c.toNat ≤ 1 → ∃ i, d = .ok i ∧ i.statuses = [.ok]
  case read | write => exact fun _ _ => ⟨_, rfl, rfl⟩
  case readWide | writeWide => intro hw; omega
  case reserved =>
    intro hr hc
    have : cmdField w = 0x00 ∨ cmdField w = 0x01 := by bv_omega
    rcases this with h | h <;> simp [h, commandCodes] at hr
  case retrieve | retrieveWide | load | loadWide => exact fun _ hc => absurd hc (by decide)
  all_goals exact fun hc => absurd hc (by decide)

/-! ### The step -/

/-- A step that takes a proper command whose word decodes runs the instruction (R4, R76). -/
theorem step_decoded {s : State} {r : Request} {rest : List Request} {i : Instr} (h : s.inbox = r :: rest)
    (hr : r.Proper) (hi : s.initialised = true ∨ cmdField r.word = 0x10) (hd : decodeWord r.word r.payload = .ok i) :
    step s = exec i { s with inbox := rest } := by
  rw [step_command h (protocolRefusal_none hr hi), fetchDecode, hd]

/-- A step that takes a proper command whose word is illegal answers `ILLEGAL_CMD` (R102, R271). -/
theorem step_illegal {s : State} {r : Request} {rest : List Request} {e : Reject} (h : s.inbox = r :: rest)
    (hr : r.Proper) (hi : s.initialised = true ∨ cmdField r.word = 0x10)
    (hd : decodeWord r.word r.payload = .error e) :
    step s = .next ({ s with inbox := rest } : State).illegalWord := by
  rw [step_command h (protocolRefusal_none hr hi), fetchDecode, hd]

/-- The code 0x10 is INIT, whatever the other fields and the payload (R92, R103). -/
theorem decodeWord_init {w : CmdWord} (data : ByteSeq) (h : cmdField w = 0x10) : decodeWord w data = .ok .init := by
  unfold decodeWord
  rw [h]
  rfl

/-- In an initialised block, and before it for INIT, the meaning of the decoded command completes. -/
theorem exec_decoded_answers {s : State} {r : Request} {i : Instr} (hr : r.Proper)
    (hi : s.initialised = true ∨ cmdField r.word = 0x10) (hd : decodeWord r.word r.payload = .ok i) :
    ∃ t, exec i s = .next t ∧ t.Answers s.inbox i.statuses := by
  rcases hi with hi | hc
  · exact exec_answers (decodeWord_isProperCommand hr.payload i hd) hi
  · obtain rfl : Instr.init = i := by simpa [decodeWord_init _ hc] using hd
    exact exec_init_answers s

/-- An illegal word never has the code of INIT, so it is answered in an initialised block only. -/
theorem initialised_of_illegal {s : State} {w : CmdWord} {data : ByteSeq} {e : Reject}
    (hi : s.initialised = true ∨ cmdField w = 0x10) (hd : decodeWord w data = .error e) : s.initialised = true := by
  refine hi.resolve_right fun hc => ?_
  rw [decodeWord_init data hc] at hd
  cases hd

/-- A step that takes a proper command answers it: with a status of the decoded instruction, or with `ILLEGAL_CMD`
where the word decodes to none. -/
theorem step_answers {s : State} {r : Request} {rest : List Request} (h : s.inbox = r :: rest) (hr : r.Proper)
    (hi : s.initialised = true ∨ cmdField r.word = 0x10) :
    ∃ t, step s = .next t ∧ t.Answers rest (match decodeWord r.word r.payload with
      | .ok i => i.statuses
      | .error _ => [.illegalCmd]) := by
  cases hd : decodeWord r.word r.payload with
  | ok i =>
    rw [step_decoded h hr hi hd]
    exact exec_decoded_answers (s := { s with inbox := rest }) hr hi hd
  | error e =>
    exact ⟨_, step_illegal h hr hi hd, State.answers_respond rfl (initialised_of_illegal hi hd) List.mem_cons_self⟩

/-! ### The statements -/

/-- Settles O9: `step_answers`, and for a READ or WRITE of a 16-bit address the only status is `OK`. -/
theorem properCommandIsAnswered : Obligations.ProperCommandIsAnswered := by
  unfold Obligations.ProperCommandIsAnswered
  intro s r rest h hr hi
  obtain ⟨t, hs, hin, hinit, q, hq, hst⟩ := step_answers h hr hi
  refine ⟨t, q, hs, hin, hinit, hq, fun hc ha => ?_⟩
  obtain ⟨i, hd, hok⟩ := decodeWord_access r.payload hc ha
  simpa [hd, hok] using hst

/-- Settles O7: the protocol refuses nothing here, and `step` then runs what the decoder gives. -/
theorem stepRunsTheDecodedInstruction : Obligations.StepRunsTheDecodedInstruction := by
  unfold Obligations.StepRunsTheDecodedInstruction
  exact ⟨fun _ => step_idle, fun _ _ _ h hr hi =>
    ⟨fun _ hd => step_decoded h hr hi hd, fun _ hd => step_illegal h hr hi hd⟩⟩

end Sys2Proof.Machine
end

section
/-! What a command can do to the state, said once: `State.Effect` lists the states a command can leave, with the guard
of each, and `step_effect` takes a step apart into one of them. The invariant (O53, O54) and the writers of each
element (O55) are then one case per effect. With them the state after INIT (O29). -/

namespace Sys2Proof.Machine

/-! ### The effect of a command, its response aside -/

/-- The states that an instruction can leave behind a state, before its response is set: the state itself, or the
effect its own rule gives it, under that rule's guards. -/
inductive State.Effect (s : State) : Instr → State → Prop
  /-- A query, or a command whose rule has it change nothing here: it has nothing to do, or answers an error status. -/
  | unchanged (i : Instr) : s.Effect i s
  | read (a : Addr) (p : BitVec 16) : s.Effect (.read a p) (s.runToCheck a)
  | write (a : Addr) (p : BitVec 16) (v : Byte) : s.Effect (.write a p v) ((s.runToCheck a).writeEffect a v)
  | init : s.Effect .init { State.reset with draws := s.draws, inbox := s.inbox }
  | reset (hf : s.family ≠ .noRule) : s.Effect .reset (({ s with map := [] } : State).ruleReset s.family)
  | loadrom {n : Num24} {data : ByteSeq} (hp : payloadOk n data = true) (hn : sizeAcceptable n.toNat = true) :
    s.Effect (.loadrom n data) { s with stage := data }
  | setrule {tag : Byte} {fam : Family} (ht : Family.ofTag tag = some fam) (hf : fam ≠ .noRule)
    (hfit : s.imageFits fam = true) : s.Effect (.setrule tag) (s.install fam)
  | load (a : Addr) (v : Byte) : s.Effect (.load a v) (s.storeMap a v)
  | restore {n : Num24} {data : ByteSeq} (hp : payloadOk n data = true) (ha : s.acceptable data = true) :
    s.Effect (.loadstate n data) (s.restore data)
  | corrupt {n : Num24} {data : ByteSeq} (hp : payloadOk n data = true) (ha : ¬ s.acceptable data = true) :
    s.Effect (.loadstate n data) (s.corrupt data)
  | bpadd {a : Num24} {q : Option Byte} (hr : ¬ outOfRange a = true) (hnew : entryOf a q ∉ s.bp)
    (hroom : s.bp.length ≠ Config.bpMax) : s.Effect (.bpadd a q) { s with bp := s.bp ++ [entryOf a q] }
  | bpremove {a : Num24} {q : Option Byte} (hr : ¬ outOfRange a = true) (hold : entryOf a q ∈ s.bp) :
    s.Effect (.bpremove a q) { s with bp := s.bp.erase (entryOf a q) }
  | runtoset {a : Num24} (q : Option Byte) (hr : ¬ outOfRange a = true) :
    s.Effect (.runtoset a q) (s.armRunTo (a.extractLsb' 0 16) q)
  | runtoclear : s.Effect .runtoclear s.disarmRunTo
  | getrunto : s.Effect .getrunto s.observeRunTo
  | pokecram {c : Num24} (v : Byte) (hf : s.family = .sega) (hc : c.toNat < Config.cramSize) :
    s.Effect (.pokecram c v) (s.storeCram c.toNat v)

/-- `t` is a state that the instruction can leave behind `s`, with its response set. -/
def State.Leaves (s : State) (i : Instr) (t : State) : Prop := ∃ u q, t = u.respond q ∧ s.Effect i u

theorem State.Effect.leaves {s u : State} {i : Instr} (h : s.Effect i u) (q : Response) : s.Leaves i (u.respond q) :=
  ⟨u, q, rfl, h⟩

theorem setRule_leaves (s : State) {tag : Byte} {fam : Family} (ht : Family.ofTag tag = some fam)
    (hf : fam ≠ .noRule) : s.Leaves (.setrule tag) (setRule fam s) := by
  unfold setRule
  split_ifs with hfit
  · exact (State.Effect.setrule ht hf hfit).leaves _
  · exact (State.Effect.unchanged _).leaves _

/-- The meaning of a proper command that completes has set a response in an effect of the command. -/
theorem exec_leaves {i : Instr} {s t : State} (hc : i.isProperCommand = true) (h : exec i s = .next t) :
    s.Leaves i t := by
  cases i with
  | read a p =>
    cases (exec_read s a p).symm.trans h
    exact (State.Effect.read a p).leaves _
  | write a p v =>
    cases (exec_write s a p v).symm.trans h
    exact (State.Effect.write a p v).leaves _
  | init => cases h; exact State.Effect.init.leaves _
  | reset =>
    cases h
    split_ifs with hf
    · exact (State.Effect.unchanged _).leaves _
    · exact (State.Effect.reset hf).leaves _
  | loadrom n data =>
    cases (show exec (.loadrom n data) s = _ from if_pos hc).symm.trans h
    split_ifs with hn
    · exact (State.Effect.loadrom hc hn).leaves _
    · exact (State.Effect.unchanged _).leaves _
  | setrule tag =>
    cases h
    rcases ht : Family.ofTag tag with _ | (_ | _)
    case none | some.noRule => exact (State.Effect.unchanged _).leaves _
    all_goals exact setRule_leaves s ht nofun
  | loadstate n data =>
    cases (show exec (.loadstate n data) s = _ from if_pos hc).symm.trans h
    split_ifs with ha
    · exact (State.Effect.restore hc ha).leaves _
    · exact (State.Effect.corrupt hc ha).leaves _
  | load a v => cases h; exact (State.Effect.load a v).leaves _
  | bpadd a q =>
    cases h
    split_ifs with hr hd hm
    · exact (State.Effect.unchanged _).leaves _
    · exact (State.Effect.unchanged _).leaves _
    · exact (State.Effect.unchanged _).leaves _
    · exact (State.Effect.bpadd hr hd hm).leaves _
  | bpremove a q =>
    cases h
    split_ifs with hr hd
    · exact (State.Effect.unchanged _).leaves _
    · exact (State.Effect.bpremove hr hd).leaves _
    · exact (State.Effect.unchanged _).leaves _
  | runtoset a q =>
    cases h
    split_ifs with hr
    · exact (State.Effect.unchanged _).leaves _
    · exact (State.Effect.runtoset q hr).leaves _
  | runtoclear => cases h; exact State.Effect.runtoclear.leaves _
  | getrunto => cases h; exact State.Effect.getrunto.leaves _
  | pokecram c v =>
    cases h
    split_ifs with hf
    · exact (State.Effect.pokecram v hf.1 hf.2).leaves _
    · exact (State.Effect.unchanged _).leaves _
  | getrule | retrieve | statesize | bpcount | rambank | peekrom | peekcram =>
    cases h; exact (State.Effect.unchanged _).leaves _
  | savestate => cases h; split_ifs <;> exact (State.Effect.unchanged _).leaves _
  | bplist => cases h; split <;> exact (State.Effect.unchanged _).leaves _
  | rombank =>
    cases h
    split_ifs
    · exact (State.Effect.unchanged _).leaves _
    · split <;> exact (State.Effect.unchanged _).leaves _
  | _ => cases hc

/-- A step that takes a command and answers a next state has taken the command and either answered an illegal word or
left an effect of the command that its word decodes to. -/
theorem step_effect {s t : State} {r : Request} {rest : List Request} (h : s.inbox = r :: rest)
    (hs : step s = .next t) :
    t = ({ s with inbox := rest } : State).illegalWord ∨
    ∃ i, decodeWord r.word r.payload = .ok i ∧ ({ s with inbox := rest } : State).Leaves i t := by
  obtain ⟨hp, he⟩ := step_next h hs
  cases hd : decodeWord r.word r.payload with
  | error e =>
    rw [hd] at he
    cases he
    exact .inl rfl
  | ok i =>
    rw [hd] at he
    exact .inr ⟨i, rfl, exec_leaves (decodeWord_isProperCommand (protocolRefusal_payload hp) i hd) he⟩

/-! ### LOADSTATE changes only elements of the family's record -/

/-- `t` differs from `s`, the model's own counter aside, only in elements that the record of the family of `s` holds
(R225): the flat map always, and of the registers and the cartridge RAM those the family has. -/
structure State.RecordOnly (s t : State) : Prop where
  family : t.family = s.family
  rom : t.rom = s.rom
  stage : t.stage = s.stage
  debugKept : s.SameDebug t
  x01 : s.family ≠ .sega → s.family ≠ .codemasters → t.x0 = s.x0 ∧ t.x1 = s.x1
  x2 : s.family ≠ .sega → s.family ≠ .codemasters → s.family ≠ .korean → t.x2 = s.x2
  ctrl : s.family ≠ .sega → t.ctrl = s.ctrl
  cram : s.family ≠ .sega → t.cram = s.cram

theorem State.restore_recordOnly (s : State) (r : ByteSeq) : s.RecordOnly (s.restore r) := by
  obtain ⟨h0, h1, h2, hctrl⟩ := s.restore_regs r
  exact
  { family := s.restore_family r
    rom := s.restore_rom r
    stage := s.restore_stage r
    debugKept :=
      ⟨s.restore_bp r, s.restore_runtoValid r, s.restore_runtoAddr r, s.restore_runtoQual r, s.restore_runtoHit r⟩
    x01 := fun hs hc => by simp [h0, h1, hs, hc]
    x2 := fun hs hc hk => by simp [h2, hs, hc, hk]
    ctrl := fun hs => by rw [hctrl, if_neg hs]
    cram := fun hs => by rw [s.restore_cram, if_neg hs] }

theorem State.corrupt_recordOnly (s : State) (r : ByteSeq) : s.RecordOnly (s.corrupt r) := by
  obtain ⟨hctrl, hx01, hx2⟩ := s.corrupt_regs_kept r
  exact
  { family := s.corrupt_family r
    rom := s.corrupt_rom r
    stage := s.corrupt_stage r
    debugKept :=
      ⟨s.corrupt_bp r, s.corrupt_runtoValid r, s.corrupt_runtoAddr r, s.corrupt_runtoQual r, s.corrupt_runtoHit r⟩
    x01 := hx01
    x2 := hx2
    ctrl := hctrl
    cram := fun hs => by rw [s.corrupt_cram, if_neg hs] }

/-! ### INIT -/

/-- Settles O29: INIT sets every element as `State.reset` has it, and the elements of that state are the values of
R35's column 'after INIT'; its memories list no byte, so they read as `RAM_FILL`. -/
theorem resetIsTheStateAfterInit : Obligations.ResetIsTheStateAfterInit :=
  ⟨fun _ => rfl, Memory.read_nil, rfl, rfl, rfl, rfl, rfl, rfl, rfl, Memory.read_nil, rfl, rfl, rfl, rfl, rfl⟩

end Sys2Proof.Machine
end

section
/-! The invariant of R33: the state after reset has it (O54), each operation on the state keeps it, and so every step
keeps it (O53). -/

namespace Sys2Proof.Machine

/-! ### The state after reset -/

/-- Settles O54: the memories are empty, no rule is installed, and the debug registers are at rest. -/
theorem resetHasTheInvariant : Obligations.ResetHasTheInvariant where
  mapWf := rfl
  cramWf := rfl
  romWf := rfl
  stageWf := rfl
  romFits h := absurd rfl h
  stageSize := .inl rfl
  koreanHardwired := nofun
  unusedPowerOn _ := ⟨rfl, rfl, rfl, rfl⟩
  noCtrl h := nomatch h
  cramZero _ _ := rfl
  hitArmed := nofun
  bpBound := ⟨Nat.zero_le _, List.nodup_nil⟩

/-! ### One lemma per operation -/

section Operations

variable {s : State}

theorem State.Inv.respond (h : s.Inv) (q : Response) : (s.respond q).Inv := { h with }

theorem State.Inv.storeMap (h : s.Inv) (a : Addr) (v : Byte) : (s.storeMap a v).Inv :=
  { h with mapWf := Memory.wf_write _ v h.mapWf a.isLt }

theorem State.Inv.storeCram (h : s.Inv) (hf : s.family = .sega) {c : Nat} (hc : c < Config.cramSize) (v : Byte) :
    (s.storeCram c v).Inv :=
  { h with cramWf := Memory.wf_write c v h.cramWf hc, cramZero := absurd hf }

/-- The four registers may hold any bytes in the Sega family. -/
theorem State.Inv.segaRegs (h : s.Inv) (hf : s.family = .sega) (x0 x1 x2 ctrl : Byte) :
    ({ s with x0, x1, x2, ctrl } : State).Inv :=
  { h with
    koreanHardwired := by simp [hf]
    unusedPowerOn := by simp [hf]
    noCtrl := by simp [hf] }

/-- The three bank registers may hold any bytes in the Codemasters family. -/
theorem State.Inv.codemastersRegs (h : s.Inv) (hf : s.family = .codemasters) (x0 x1 x2 : Byte) :
    ({ s with x0, x1, x2 } : State).Inv :=
  { h with
    koreanHardwired := by simp [hf]
    unusedPowerOn := by simp [hf] }

/-- `x[2]` may hold any byte in the Korean family. -/
theorem State.Inv.koreanReg (h : s.Inv) (hf : s.family = .korean) (x2 : Byte) : ({ s with x2 } : State).Inv :=
  { h with unusedPowerOn := by simp [hf] }

/-- Both banks of the cartridge RAM lie inside it. -/
theorem State.cramIndex_lt (s : State) (a : Addr) : s.cramIndex a < Config.cramSize := by
  have hbank : rambank s.ctrl ≤ 1 := by unfold rambank; split <;> decide
  have hoff : off a < 16384 := Nat.mod_lt _ (by decide)
  unfold State.cramIndex
  simp only [Config.bankSize, Config.cramSize]
  omega

theorem State.Inv.writeEffect (h : s.Inv) (a : Addr) (v : Byte) : (s.writeEffect a v).Inv := by
  unfold State.writeEffect
  split
  · exact h.storeMap a v
  split
  case h_1 | h_2 | h_3 => exact h
  case h_4 hf =>
    split_ifs
    · exact h.codemastersRegs hf v _ _
    · exact h.codemastersRegs hf _ v _
    · exact h.codemastersRegs hf _ _ v
    · exact h
  case h_5 hf =>
    split_ifs
    · exact h.koreanReg hf v
    · exact h
  case h_6 hf =>
    split_ifs
    · exact h.segaRegs hf _ _ _ v
    · exact h.segaRegs hf v _ _ _
    · exact h.segaRegs hf _ v _ _
    · exact h.segaRegs hf _ _ v _
    · exact h.storeCram hf (s.cramIndex_lt a) v
    · exact h

/-- A hit needs an armed target (R252). -/
theorem State.Inv.runToCheck (h : s.Inv) (a : Addr) : (s.runToCheck a).Inv :=
  { h with
    hitArmed := fun hit => by
      rcases Bool.or_eq_true_iff.mp hit with hold | hmatch
      · exact h.hitArmed hold
      · simp only [State.runToMatches, Bool.and_eq_true] at hmatch
        obtain ⟨⟨hvalid, -⟩, -⟩ := hmatch
        exact hvalid }

theorem State.Inv.armRunTo (h : s.Inv) (a : Addr) (q : Option Byte) : (s.armRunTo a q).Inv :=
  { h with hitArmed := nofun }

theorem State.Inv.disarmRunTo (h : s.Inv) : s.disarmRunTo.Inv := { h with hitArmed := nofun }

theorem State.Inv.observeRunTo (h : s.Inv) : s.observeRunTo.Inv := by
  unfold State.observeRunTo
  split_ifs
  · exact h.disarmRunTo
  · exact h

theorem powerOnX2_unbanked {fam : Family} (hf : fam = .noRule ∨ fam = .romOnly ∨ fam = .sg1000) :
    powerOnX2 fam = 0x02 := by
  rcases hf with rfl | rfl | rfl <;> rfl

/-- The values that `RuleReset` sets meet every clause on registers. -/
theorem State.Inv.ruleReset (h : s.Inv) : (s.ruleReset s.family).Inv :=
  { h with
    koreanHardwired := fun _ => ⟨rfl, rfl⟩
    unusedPowerOn := fun hf => ⟨rfl, rfl, powerOnX2_unbanked hf, rfl⟩
    noCtrl := fun _ => rfl }

theorem State.Inv.clearMap (h : s.Inv) : ({ s with map := [] } : State).Inv := { h with mapWf := rfl }

theorem State.Inv.stage (h : s.Inv) {n : Num24} {data : ByteSeq} (hp : payloadOk n data = true)
    (hn : sizeAcceptable n.toNat = true) : ({ s with stage := data } : State).Inv := by
  obtain ⟨hsize, hwf⟩ := (payloadOk_iff n data).mp hp
  simp only [sizeAcceptable, Bool.and_eq_true, decide_eq_true_eq, ← hsize] at hn
  obtain ⟨⟨hmin, hmax⟩, hgran⟩ := hn
  exact { h with stageWf := hwf, stageSize := .inr ⟨hmin, hmax, hgran⟩ }

theorem State.Inv.install (h : s.Inv) {fam : Family} (hfit : s.imageFits fam = true) : (s.install fam).Inv := by
  simp only [State.imageFits, Bool.and_eq_true, decide_eq_true_eq] at hfit
  exact
  { h with
    cramWf := rfl
    romWf := h.stageWf
    romFits := fun _ => hfit
    koreanHardwired := fun _ => ⟨rfl, rfl⟩
    unusedPowerOn := fun hf => ⟨rfl, rfl, powerOnX2_unbanked hf, rfl⟩
    noCtrl := fun _ => rfl
    cramZero := fun _ _ => rfl }

theorem State.Inv.addBreakpoint (h : s.Inv) {b : Breakpoint} (hnew : b ∉ s.bp)
    (hroom : s.bp.length ≠ Config.bpMax) : ({ s with bp := s.bp ++ [b] } : State).Inv := by
  obtain ⟨hlen, hnodup⟩ := h.bpBound
  refine { h with bpBound := ⟨?_, List.concat_eq_append ▸ hnodup.concat hnew⟩ }
  simp only [List.length_append, List.length_singleton]
  omega

theorem State.Inv.removeBreakpoint (h : s.Inv) (b : Breakpoint) : ({ s with bp := s.bp.erase b } : State).Inv :=
  { h with bpBound := ⟨List.length_erase_le.trans h.bpBound.1, h.bpBound.2.erase b⟩ }

/-! ### LOADSTATE -/

theorem State.Inv.of_recordOnly {t : State} (h : s.Inv) (hr : s.RecordOnly t) (mapWf : t.map.wf Config.mapSize = true)
    (cramWf : t.cram.wf Config.cramSize = true) : t.Inv where
  mapWf := mapWf
  cramWf := cramWf
  romWf := hr.rom ▸ h.romWf
  stageWf := hr.stage ▸ h.stageWf
  romFits := by rw [hr.family, hr.rom]; exact h.romFits
  stageSize := hr.stage ▸ h.stageSize
  koreanHardwired hf := by
    rw [hr.family] at hf
    obtain ⟨h0, h1⟩ := hr.x01 (by simp [hf]) (by simp [hf])
    rw [h0, h1]
    exact h.koreanHardwired hf
  unusedPowerOn hf := by
    rw [hr.family] at hf
    have hs : s.family ≠ .sega := by intro e; simp [e] at hf
    have hc : s.family ≠ .codemasters := by intro e; simp [e] at hf
    have hk : s.family ≠ .korean := by intro e; simp [e] at hf
    obtain ⟨h0, h1⟩ := hr.x01 hs hc
    rw [h0, h1, hr.x2 hs hc hk, hr.ctrl hs]
    exact h.unusedPowerOn hf
  noCtrl hf := by
    rw [hr.family] at hf
    rw [hr.ctrl (by intro e; simp [e] at hf)]
    exact h.noCtrl hf
  cramZero hf := by
    rw [hr.family] at hf
    rw [hr.cram hf]
    exact h.cramZero hf
  hitArmed := by rw [hr.debugKept.runtoHit, hr.debugKept.runtoValid]; exact h.hitArmed
  bpBound := hr.debugKept.bp ▸ h.bpBound

theorem State.Inv.restore (h : s.Inv) {n : Num24} {data : ByteSeq} (hp : payloadOk n data = true) :
    (s.restore data).Inv := by
  obtain ⟨-, hwf⟩ := (payloadOk_iff n data).mp hp
  refine h.of_recordOnly (s.restore_recordOnly data) ?_ ?_
  · rw [s.restore_map]
    exact Memory.wf_slice _ _ hwf
  · rw [s.restore_cram]
    split
    · exact Memory.wf_slice _ _ hwf
    · exact h.cramWf

theorem State.Inv.corrupt (h : s.Inv) (data : ByteSeq) : (s.corrupt data).Inv := by
  refine h.of_recordOnly (s.corrupt_recordOnly data) ?_ ?_
  · rw [s.corrupt_map]
    exact Memory.wf_tabulate _ _
  · rw [s.corrupt_cram]
    split
    · exact Memory.wf_tabulate _ _
    · exact h.cramWf

/-! ### Every step -/

/-- Each effect of a command keeps the invariant. -/
theorem State.Effect.inv {u : State} {i : Instr} (he : s.Effect i u) (h : s.Inv) : u.Inv := by
  cases he with
  | unchanged => exact h
  | read a => exact h.runToCheck a
  | write a _ v => exact (h.runToCheck a).writeEffect a v
  | init => exact { resetHasTheInvariant with }
  | reset => exact h.clearMap.ruleReset
  | loadrom hp hn => exact h.stage hp hn
  | setrule _ _ hfit => exact h.install hfit
  | load a v => exact h.storeMap a v
  | restore hp => exact h.restore hp
  | corrupt => exact h.corrupt _
  | bpadd _ hnew hroom => exact h.addBreakpoint hnew hroom
  | bpremove => exact h.removeBreakpoint _
  | runtoset q => exact h.armRunTo _ q
  | runtoclear => exact h.disarmRunTo
  | getrunto => exact h.observeRunTo
  | pokecram v hf hc => exact h.storeCram hf hc v

end Operations

/-- Settles O53: a step takes no command, answers an illegal word, or leaves an effect of a command, and none of them
breaks a clause. -/
theorem everyStepKeepsTheInvariant : Obligations.EveryStepKeepsTheInvariant := by
  intro s t h hs
  cases hin : s.inbox with
  | nil =>
    cases (step_idle hin).symm.trans hs
    exact h
  | cons r rest =>
    have hrest : ({ s with inbox := rest } : State).Inv := { h with }
    obtain rfl | ⟨i, -, u, q, rfl, he⟩ := step_effect hin hs
    · exact hrest.respond _
    · exact (he.inv hrest).respond q

end Sys2Proof.Machine
end

section
/-! R20's column of writers: a command changes an element of the state only if it is one of the element's writers
(O55). -/

namespace Sys2Proof

/-- The command code of a command, from R92's table. An address-decode row has none; it is no command word's
instruction (`code_of_decodeWord`), and its value here is of no account. -/
def Instr.code : Instr → Byte
  | .read _ _ => 0x00
  | .write _ _ _ => 0x01
  | .init => 0x10
  | .reset => 0x11
  | .loadrom _ _ => 0x12
  | .setrule _ => 0x13
  | .getrule => 0x14
  | .retrieve _ => 0x20
  | .load _ _ => 0x21
  | .statesize => 0x30
  | .savestate _ => 0x31
  | .loadstate _ _ => 0x32
  | .bpadd _ _ => 0x40
  | .bpremove _ _ => 0x41
  | .bpcount => 0x42
  | .bplist _ => 0x43
  | .runtoset _ _ => 0x44
  | .runtoclear => 0x45
  | .getrunto => 0x46
  | .rombank _ => 0x50
  | .rambank => 0x51
  | .peekrom _ => 0x52
  | .peekcram _ => 0x53
  | .pokecram _ _ => 0x54
  | _ => 0x00

/-- A word that decodes has the code of the instruction it decodes to. -/
theorem code_of_decodeWord {w : CmdWord} {data : ByteSeq} {i : Instr} (hd : decodeWord w data = .ok i) :
    i.code = cmdField w := by
  revert hd
  apply Machine.decodeWord_cases w data fun c d => d = .ok i → i.code = c
  case readWide | writeWide | retrieveWide | loadWide | reserved => exact fun _ hd => nomatch hd
  case read | write | retrieve | load => rintro _ ⟨⟩; rfl
  all_goals rintro ⟨⟩; rfl

end Sys2Proof

namespace Sys2Proof.Machine

/-- Of the elements of R20's table, those that differ between `s` and `t` have the command `c` as a writer. -/
structure State.WrittenBy (c : Byte) (s t : State) : Prop where
  map : t.map ≠ s.map → c ∈ ([0x01, 0x21, 0x10, 0x11, 0x32] : List Byte)
  family : t.family ≠ s.family → c ∈ ([0x13, 0x10] : List Byte)
  rom : t.rom ≠ s.rom → c ∈ ([0x13, 0x10] : List Byte)
  stage : t.stage ≠ s.stage → c ∈ ([0x12, 0x10] : List Byte)
  regs : t.x0 ≠ s.x0 ∨ t.x1 ≠ s.x1 ∨ t.x2 ≠ s.x2 ∨ t.ctrl ≠ s.ctrl →
    c ∈ ([0x01, 0x13, 0x11, 0x32, 0x10] : List Byte)
  cram : t.cram ≠ s.cram → c ∈ ([0x01, 0x54, 0x32, 0x13, 0x10] : List Byte)
  bp : t.bp ≠ s.bp → c ∈ ([0x40, 0x41, 0x10] : List Byte)
  runtoValid : t.runtoValid ≠ s.runtoValid → c ∈ ([0x44, 0x45, 0x46, 0x10] : List Byte)
  runtoTarget : t.runtoAddr ≠ s.runtoAddr ∨ t.runtoQual ≠ s.runtoQual → c ∈ ([0x44, 0x10] : List Byte)
  hitSet : t.runtoHit = true → s.runtoHit = false → c ∈ ([0x00, 0x01] : List Byte)
  hitCleared : t.runtoHit = false → s.runtoHit = true → c ∈ ([0x46, 0x44, 0x45, 0x10] : List Byte)

theorem State.WrittenBy.refl (c : Byte) (s : State) : s.WrittenBy c s where
  map h := absurd rfl h
  family h := absurd rfl h
  rom h := absurd rfl h
  stage h := absurd rfl h
  regs h := by simp at h
  cram h := absurd rfl h
  bp h := absurd rfl h
  runtoValid h := absurd rfl h
  runtoTarget h := by simp at h
  hitSet h h' := by simp [h] at h'
  hitCleared h h' := by simp [h] at h'

/-- LOADSTATE, whose two outcomes change only elements of the record, is a writer of each of these (R230, R232). -/
theorem State.RecordOnly.writtenBy {s t : State} (h : s.RecordOnly t) : s.WrittenBy 0x32 t where
  map _ := by decide
  family hne := absurd h.family hne
  rom hne := absurd h.rom hne
  stage hne := absurd h.stage hne
  regs _ := by decide
  cram _ := by decide
  bp hne := absurd h.debugKept.bp hne
  runtoValid hne := absurd h.debugKept.runtoValid hne
  runtoTarget hne := by simp [h.debugKept.runtoAddr, h.debugKept.runtoQual] at hne
  hitSet ht hs := by simp [h.debugKept.runtoHit, hs] at ht
  hitCleared ht hs := by simp [h.debugKept.runtoHit, hs] at ht

/-- A READ or a WRITE: of the debug registers it can set `RUNTO_HIT` only (R252). -/
theorem State.runToCheck_writtenBy (s : State) (a : Addr) {c : Byte} (hc : c ∈ ([0x00, 0x01] : List Byte)) :
    s.WrittenBy c (s.runToCheck a) :=
  { State.WrittenBy.refl c s with
    hitSet := fun _ _ => hc
    hitCleared := fun ht hs => by simp [hs] at ht }

theorem State.writeEffect_writtenBy (s : State) (a : Addr) (v : Byte) :
    s.WrittenBy 0x01 ((s.runToCheck a).writeEffect a v) := by
  rw [State.writeEffect_frame]
  exact
  { s.runToCheck_writtenBy a (c := 0x01) (by decide) with
    map := fun _ => by decide
    regs := fun _ => by decide
    cram := fun _ => by decide }

/-- GETRUNTO and RUNTOCLEAR disarm the target and discard its hit, and are writers of both (R250, R251). -/
theorem State.disarmRunTo_writtenBy (s : State) {c : Byte} (hc : c = 0x45 ∨ c = 0x46) :
    s.WrittenBy c s.disarmRunTo :=
  { State.WrittenBy.refl c s with
    runtoValid := fun _ => by rcases hc with rfl | rfl <;> decide
    hitSet := nofun
    hitCleared := fun _ _ => by rcases hc with rfl | rfl <;> decide }

theorem State.observeRunTo_writtenBy (s : State) : s.WrittenBy 0x46 s.observeRunTo := by
  unfold State.observeRunTo
  split
  · exact s.disarmRunTo_writtenBy (.inr rfl)
  · exact .refl _ s

/-- INIT is a writer of every element, and clears a hit rather than set one (R35). -/
theorem State.init_writtenBy (s : State) :
    s.WrittenBy 0x10 { State.reset with draws := s.draws, inbox := s.inbox } where
  map _ := by decide
  family _ := by decide
  rom _ := by decide
  stage _ := by decide
  regs _ := by decide
  cram _ := by decide
  bp _ := by decide
  runtoValid _ := by decide
  runtoTarget _ := by decide
  hitSet := nofun
  hitCleared _ _ := by decide

/-- Each effect changes only elements that the command is a writer of. -/
theorem State.Effect.writtenBy {s u : State} {i : Instr} (he : s.Effect i u) : s.WrittenBy i.code u := by
  cases he with
  | unchanged => exact .refl _ s
  | read a p =>
    change s.WrittenBy 0x00 _
    exact s.runToCheck_writtenBy a (by decide)
  | write a p v => exact s.writeEffect_writtenBy a v
  | init => exact s.init_writtenBy
  | reset =>
    change s.WrittenBy 0x11 _
    exact { State.WrittenBy.refl 0x11 s with map := fun _ => by decide, regs := fun _ => by decide }
  | loadrom =>
    change s.WrittenBy 0x12 _
    exact { State.WrittenBy.refl 0x12 s with stage := fun _ => by decide }
  | setrule =>
    change s.WrittenBy 0x13 _
    exact
    { State.WrittenBy.refl 0x13 s with
      family := fun _ => by decide
      rom := fun _ => by decide
      regs := fun _ => by decide
      cram := fun _ => by decide }
  | load a v =>
    change s.WrittenBy 0x21 _
    exact { State.WrittenBy.refl 0x21 s with map := fun _ => by decide }
  | restore => exact (s.restore_recordOnly _).writtenBy
  | corrupt => exact (s.corrupt_recordOnly _).writtenBy
  | bpadd =>
    change s.WrittenBy 0x40 _
    exact { State.WrittenBy.refl 0x40 s with bp := fun _ => by decide }
  | bpremove =>
    change s.WrittenBy 0x41 _
    exact { State.WrittenBy.refl 0x41 s with bp := fun _ => by decide }
  | runtoset =>
    change s.WrittenBy 0x44 _
    exact
    { State.WrittenBy.refl 0x44 s with
      runtoValid := fun _ => by decide
      runtoTarget := fun _ => by decide
      hitSet := nofun
      hitCleared := fun _ _ => by decide }
  | runtoclear => exact s.disarmRunTo_writtenBy (.inl rfl)
  | getrunto => exact s.observeRunTo_writtenBy
  | pokecram =>
    change s.WrittenBy 0x54 _
    exact { State.WrittenBy.refl 0x54 s with cram := fun _ => by decide }

/-- Settles O55: a step that takes a command answers an illegal word, which changes no element, or leaves an effect of
the command, which changes only elements that the command is a writer of. -/
theorem everyElementHasOnlyItsWriters : Obligations.EveryElementHasOnlyItsWriters := by
  intro s t r rest hin hs
  have hw : s.WrittenBy (cmdField r.word) t := by
    obtain rfl | ⟨i, hd, u, q, rfl, he⟩ := step_effect hin hs
    · exact { State.WrittenBy.refl (cmdField r.word) s with }
    · rw [← code_of_decodeWord hd]
      exact { he.writtenBy with }
  exact ⟨hw.map, hw.family, hw.rom, hw.stage, hw.regs, hw.cram, hw.bp, hw.runtoValid, hw.runtoTarget, hw.hitSet,
    hw.hitCleared⟩

end Sys2Proof.Machine
end

section
/-! The partition of the address space (R62 to R65) and the translation (R68): which addresses are delegated, what a
READ shows there (O15), that an address resolves inside its memory (O16), and the rows of the direct addresses
(O19, O20). -/

namespace Sys2Proof.Machine

/-! ### Delegated and direct addresses -/

theorem delegated_iff {fam : Family} {a : Addr} :
    delegated fam a = true ↔ a.toNat < 0xC000 ∨ (fam = .sega ∧ 0xFFFC ≤ a.toNat) := by
  simp [delegated]

/-- The direct addresses (R64): 0xC000 on, in Sega below the register file. -/
theorem not_delegated {fam : Family} {a : Addr} (ha : 0xC000 ≤ a.toNat) (hs : fam = .sega → a.toNat < 0xFFFC) :
    ¬ delegated fam a = true := by
  rw [delegated_iff]
  rintro (hlow | ⟨hf, hreg⟩)
  · omega
  · exact absurd (hs hf) (by omega)

/-! ### What a READ shows of the flat map -/

/-- The engines do not look at `MAP` (R65). -/
theorem State.memRead_of_delegated {s : State} {a : Addr} (h : delegated s.family a = true) (m : Memory) :
    ({ s with map := m } : State).memRead a = s.memRead a := by
  rw [State.memRead_eq, State.memRead_eq, if_pos h, if_pos h]
  rfl

theorem State.memRead_of_direct {s : State} {a : Addr} (h : ¬ delegated s.family a = true) :
    s.memRead a = s.map.read a.toNat := by
  rw [State.memRead_eq, if_neg h]

/-- Settles O15: the byte is that of `Resolve`, in which `MAP` plays no part at a delegated address and nothing else
does at a direct one; the run-to hook does not read `MAP` either. -/
theorem shadowBytesAreInvisible : Obligations.ShadowBytesAreInvisible := by
  unfold Obligations.ShadowBytesAreInvisible
  intro s s' a p
  refine ⟨s.memRead a, (s.runToCheck a).runtoHit, exec_read s a p, fun hdel m => ?_, fun hdir hmap hfam => ?_⟩
  · rw [exec_read, State.memRead_of_delegated (delegated_iff.mpr hdel)]
    rfl
  · rw [← delegated_iff] at hdir
    have hbyte : s'.memRead a = s.memRead a := by
      rw [State.memRead_of_direct hdir, State.memRead_of_direct (hfam ▸ hdir), hmap]
    exact ⟨(s'.runToCheck a).runtoHit, hbyte ▸ exec_read s' a p⟩

/-! ### The places an address resolves to -/

theorem State.lin_lt {s : State} (h : 0 < s.rom.size) (a : Addr) : s.lin a < s.rom.size :=
  Nat.mod_lt _ h

/-- A bank below `NB` lies wholly inside the image, even where the image ends in a part of a bank (R97). -/
theorem State.phys_lt {s : State} (h : Config.bankSize ≤ s.rom.size) (a : Addr) : s.phys a < s.rom.size := by
  have hbank : s.bank (win a) < s.nb := Nat.mod_lt _ (Nat.div_pos h (by decide))
  have hoff : off a < Config.bankSize := Nat.mod_lt _ (by decide)
  calc s.phys a
    _ < s.bank (win a) * Config.bankSize + Config.bankSize := Nat.add_lt_add_left hoff _
    _ = (s.bank (win a) + 1) * Config.bankSize := (Nat.succ_mul _ _).symm
    _ ≤ s.nb * Config.bankSize := Nat.mul_le_mul_right _ hbank
    _ ≤ s.rom.size := Nat.div_mul_le_self _ _

/-- An installed image is as large as its family's granularity asks at least (R33 (b), R196). -/
theorem State.Inv.gran_le {s : State} (h : s.Inv) (hf : s.family ≠ .noRule) : gran s.family ≤ s.rom.size :=
  have ⟨hpos, hgran⟩ := h.romFits hf
  Nat.le_of_dvd hpos (Nat.dvd_of_mod_eq_zero hgran)

/-- A place lies inside its memory, and its kind is one that the installed family has. -/
def State.InBounds (s : State) : Place → Prop
  | .mapCell n => n < Config.mapSize
  | .romCell p => p < s.rom.size
  | .cramCell c => c < Config.cramSize
  | .regCell i => i < 4 ∧ s.family = .sega
  | .openBus => s.family = .noRule

theorem State.Inv.resolve_inBounds {s : State} (h : s.Inv) (a : Addr) : s.InBounds (s.resolve a) := by
  have rom (hf : s.family ≠ .noRule) : 0 < s.rom.size := (h.romFits hf).1
  have bank {fam : Family} (hf : s.family = fam) (hg : gran fam = Config.bankSize) : Config.bankSize ≤ s.rom.size := by
    subst hf
    exact hg ▸ h.gran_le fun hn => by simp [hn, gran] at hg
  have hlt := a.isLt
  unfold State.resolve
  split
  · split
    case h_1 hf => exact hf
    case h_2 hf | h_3 hf => exact State.lin_lt (rom (by simp [hf])) a
    case h_4 hf | h_5 hf => exact State.phys_lt (bank hf rfl) a
    case h_6 hf =>
      split_ifs
      · exact ⟨by simp only [Config.segaRegBase]; omega, hf⟩
      · exact s.cramIndex_lt a
      · exact State.phys_lt (bank hf rfl) a
  · exact hlt

/-- Settles O16: `State.Inv.resolve_inBounds`, read place by place. -/
theorem resolvedOffsetsAreInBounds : Obligations.ResolvedOffsetsAreInBounds := by
  unfold Obligations.ResolvedOffsetsAreInBounds
  intro s a hi
  have hb : s.InBounds (s.resolve a) := hi.resolve_inBounds a
  exact ⟨fun _ h => by rwa [h] at hb, fun _ h => by rwa [h] at hb, fun _ h => by rwa [h] at hb,
    fun h => by rwa [h] at hb⟩

/-! ### The direct rows -/

/-- The read row of a family's direct addresses (R96). -/
def directReadRow : Family → Row
  | .noRule => .noneRDirect
  | .romOnly => .romOnlyRDirect
  | .sega => .segaRDirect
  | .codemasters => .codemastersRDirect
  | .korean => .koreanRDirect
  | .sg1000 => .sg1000RDirect

/-- The write row of a family's direct addresses (R96). -/
def directWriteRow : Family → Row
  | .noRule => .noneWDirect
  | .romOnly => .romOnlyWDirect
  | .sega => .segaWDirect
  | .codemasters => .codemastersWDirect
  | .korean => .koreanWDirect
  | .sg1000 => .sg1000WDirect

theorem selectRow_direct_read {fam : Family} {a : Addr} (h : ¬ delegated fam a = true) (r : Bool) :
    selectRow fam .read r a = some (directReadRow fam) := by
  simp only [delegated_iff, not_or, not_lt] at h
  obtain ⟨ha, hs⟩ := h
  cases fam with
  | noRule => rw [selectRow_noRule_read, if_pos ha]; rfl
  | romOnly => rw [selectRow_romOnly_read, if_pos ha]; rfl
  | sega => rw [selectRow_sega_read, if_neg (by simpa using hs), if_pos ha]; rfl
  | codemasters => rw [selectRow_codemasters_read, if_pos ha]; rfl
  | korean => rw [selectRow_korean_read, if_pos ha]; rfl
  | sg1000 => rw [selectRow_sg1000_read, if_pos ha]; rfl

/-- No select location is a direct address. -/
theorem selectRow_direct_write {fam : Family} {a : Addr} (h : ¬ delegated fam a = true) (r : Bool) :
    selectRow fam .write r a = some (directWriteRow fam) := by
  have ne {b : Addr} (hb : delegated fam b = true) : a ≠ b := fun e => h (e ▸ hb)
  have ha : 0xC000 ≤ a.toNat := by
    simp only [delegated_iff, not_or, not_lt] at h
    exact h.1
  cases fam with
  | noRule => rw [selectRow_noRule_write, if_pos ha]; rfl
  | romOnly => rw [selectRow_romOnly_write, if_pos ha]; rfl
  | sega =>
    rw [selectRow_sega_write, if_neg (ne (by decide)), if_neg (ne (by decide)), if_neg (ne (by decide)),
      if_neg (ne (by decide)), if_pos ha]
    rfl
  | codemasters =>
    rw [selectRow_codemasters_write, if_neg (ne (by decide)), if_neg (ne (by decide)), if_neg (ne (by decide)),
      if_pos ha]
    rfl
  | korean => rw [selectRow_korean_write, if_neg (ne (by decide)), if_pos ha]; rfl
  | sg1000 => rw [selectRow_sg1000_write, if_pos ha]; rfl

/-- The direct read row of the installed family returns the byte of `MAP` (R120). -/
theorem exec_directRead {s : State} {fam : Family} {a : Addr} (hf : s.family = fam) (h : ¬ delegated fam a = true)
    (v : Byte) :
    exec ((directReadRow fam).instr a v) s = .next (s.respond (resp .ok (s.map.read a.toNat) 0)) := by
  have hsel : selectRow s.family .read (ramen s.ctrl) a = some (directReadRow fam) := hf ▸ selectRow_direct_read h _
  cases fam <;> exact State.readBy_selected _ hsel

/-- The direct write row of the installed family stores the byte in `MAP` (R121). -/
theorem exec_directWrite {s : State} {fam : Family} {a : Addr} (hf : s.family = fam) (h : ¬ delegated fam a = true)
    (v : Byte) : exec ((directWriteRow fam).instr a v) s = .next (s.storeMap a v).done := by
  have hsel : selectRow s.family .write (ramen s.ctrl) a = some (directWriteRow fam) :=
    hf ▸ selectRow_direct_write h _
  cases fam <;> exact State.writeBy_selected _ hsel

/-- Settles O19: the six rows are the direct read rows of their families, so `exec_directRead` speaks of each. -/
theorem directReadRows : Obligations.DirectReadRows := by
  unfold Obligations.DirectReadRows
  intro s a ha
  exact ⟨fun hf => exec_directRead hf (not_delegated ha nofun) 0x00,
    fun hf => exec_directRead hf (not_delegated ha nofun) 0x00,
    fun hf => exec_directRead hf (not_delegated ha nofun) 0x00,
    fun hf hs => exec_directRead hf (not_delegated ha fun _ => hs) 0x00,
    fun hf => exec_directRead hf (not_delegated ha nofun) 0x00,
    fun hf => exec_directRead hf (not_delegated ha nofun) 0x00⟩

/-- Settles O20: the six rows are the direct write rows of their families, and the map they leave is the one with the
byte at `a` written (`exec_directWrite`, `Memory.read_write`). -/
theorem directWriteRows : Obligations.DirectWriteRows := by
  unfold Obligations.DirectWriteRows
  intro s a v ha
  exact ⟨s.map.write a.toNat v, s.map.read_write a.toNat v,
    fun hf => exec_directWrite hf (not_delegated ha nofun) v,
    fun hf => exec_directWrite hf (not_delegated ha nofun) v,
    fun hf => exec_directWrite hf (not_delegated ha nofun) v,
    fun hf hs => exec_directWrite hf (not_delegated ha fun _ => hs) v,
    fun hf => exec_directWrite hf (not_delegated ha nofun) v,
    fun hf => exec_directWrite hf (not_delegated ha nofun) v⟩

end Sys2Proof.Machine
end

section
/-! The address decoder of R95 and R96: the row each access decodes to, by address ranges (O6), that a row's
instruction completes exactly where its row is selected (O18), and that decoding inverts encoding (O2). -/

namespace Sys2Proof

/-! ### The row an access decodes to -/

theorem decodeAccess_of_selectRow {fam : Family} {dir : Dir} {r : Bool} {a : Addr} {row : Row}
    (h : selectRow fam dir r a = some row) (v : Byte) : decodeAccess fam dir r a v = .ok (row.instr a v) := by
  simp [decodeAccess, h]

section Access

variable (r : Bool) (a : Addr) (v : Byte)

@[simp] theorem decodeAccess_noRule_read : decodeAccess .noRule .read r a v =
    .ok (if 0xC000 ≤ a.toNat then .noneRDirect a else .noneRRest a) := by
  rw [decodeAccess_of_selectRow (selectRow_noRule_read r a)]
  split_ifs <;> rfl

@[simp] theorem decodeAccess_noRule_write : decodeAccess .noRule .write r a v =
    .ok (if 0xC000 ≤ a.toNat then .noneWDirect a v else .noneWRest a v) := by
  rw [decodeAccess_of_selectRow (selectRow_noRule_write r a)]
  split_ifs <;> rfl

@[simp] theorem decodeAccess_romOnly_read : decodeAccess .romOnly .read r a v =
    .ok (if 0xC000 ≤ a.toNat then .romOnlyRDirect a else .romOnlyRRest a) := by
  rw [decodeAccess_of_selectRow (selectRow_romOnly_read r a)]
  split_ifs <;> rfl

@[simp] theorem decodeAccess_romOnly_write : decodeAccess .romOnly .write r a v =
    .ok (if 0xC000 ≤ a.toNat then .romOnlyWDirect a v else .romOnlyWRest a v) := by
  rw [decodeAccess_of_selectRow (selectRow_romOnly_write r a)]
  split_ifs <;> rfl

@[simp] theorem decodeAccess_sg1000_read : decodeAccess .sg1000 .read r a v =
    .ok (if 0xC000 ≤ a.toNat then .sg1000RDirect a else .sg1000RRest a) := by
  rw [decodeAccess_of_selectRow (selectRow_sg1000_read r a)]
  split_ifs <;> rfl

@[simp] theorem decodeAccess_sg1000_write : decodeAccess .sg1000 .write r a v =
    .ok (if 0xC000 ≤ a.toNat then .sg1000WDirect a v else .sg1000WRest a v) := by
  rw [decodeAccess_of_selectRow (selectRow_sg1000_write r a)]
  split_ifs <;> rfl

@[simp] theorem decodeAccess_sega_read : decodeAccess .sega .read r a v =
    .ok (if 0xFFFC ≤ a.toNat then .segaRRegs a
      else if 0xC000 ≤ a.toNat then .segaRDirect a
      else if 0x8000 ≤ a.toNat then (if r = true then .segaRWin2Cram a else .segaRWin2Rom a)
      else .segaRWin01 a) := by
  rw [decodeAccess_of_selectRow (selectRow_sega_read r a)]
  split_ifs <;> rfl

@[simp] theorem decodeAccess_sega_write : decodeAccess .sega .write r a v =
    .ok (if a.toNat = 0xFFFC then .segaWCtrl v
      else if a.toNat = 0xFFFD then .segaWX0 v
      else if a.toNat = 0xFFFE then .segaWX1 v
      else if a.toNat = 0xFFFF then .segaWX2 v
      else if 0xC000 ≤ a.toNat then .segaWDirect a v
      else if 0x8000 ≤ a.toNat ∧ r = true then .segaWWin2Cram a v
      else .segaWRest a v) := by
  rw [decodeAccess_of_selectRow (selectRow_sega_write r a)]
  simp only [BitVec.toNat_eq, BitVec.toNat_ofNat, Nat.reducePow, Nat.reduceMod]
  split_ifs <;> rfl

@[simp] theorem decodeAccess_codemasters_read : decodeAccess .codemasters .read r a v =
    .ok (if 0xC000 ≤ a.toNat then .codemastersRDirect a else .codemastersRRest a) := by
  rw [decodeAccess_of_selectRow (selectRow_codemasters_read r a)]
  split_ifs <;> rfl

@[simp] theorem decodeAccess_codemasters_write : decodeAccess .codemasters .write r a v =
    .ok (if a.toNat = 0x0000 then .codemastersWX0 v
      else if a.toNat = 0x4000 then .codemastersWX1 v
      else if a.toNat = 0x8000 then .codemastersWX2 v
      else if 0xC000 ≤ a.toNat then .codemastersWDirect a v
      else .codemastersWRest a v) := by
  rw [decodeAccess_of_selectRow (selectRow_codemasters_write r a)]
  simp only [BitVec.toNat_eq, BitVec.toNat_ofNat, Nat.reducePow, Nat.reduceMod]
  split_ifs <;> rfl

@[simp] theorem decodeAccess_korean_read : decodeAccess .korean .read r a v =
    .ok (if 0xC000 ≤ a.toNat then .koreanRDirect a else .koreanRRest a) := by
  rw [decodeAccess_of_selectRow (selectRow_korean_read r a)]
  split_ifs <;> rfl

@[simp] theorem decodeAccess_korean_write : decodeAccess .korean .write r a v =
    .ok (if a.toNat = 0xA000 then .koreanWX2 v
      else if 0xC000 ≤ a.toNat then .koreanWDirect a v
      else .koreanWRest a v) := by
  rw [decodeAccess_of_selectRow (selectRow_korean_write r a)]
  simp only [BitVec.toNat_eq, BitVec.toNat_ofNat, Nat.reducePow, Nat.reduceMod]
  split_ifs <;> rfl

end Access

/-- Settles O6: one lemma per family and direction. -/
theorem addressDecoderRows : Obligations.AddressDecoderRows := fun r a v =>
  ⟨decodeAccess_noRule_read r a v, decodeAccess_noRule_write r a v,
    decodeAccess_romOnly_read r a v, decodeAccess_romOnly_write r a v,
    decodeAccess_sg1000_read r a v, decodeAccess_sg1000_write r a v,
    decodeAccess_sega_read r a v, decodeAccess_sega_write r a v,
    decodeAccess_codemasters_read r a v, decodeAccess_codemasters_write r a v,
    decodeAccess_korean_read r a v, decodeAccess_korean_write r a v⟩

/-! ### Decoding inverts encoding -/

/-- A Sega write below the registers (R96). -/
theorem decodeAccess_sega_write_low {a : Addr} (ha : ¬ 0xFFFC ≤ a.toNat) (r : Bool) (v : Byte) :
    decodeAccess .sega .write r a v =
      .ok (if 0xC000 ≤ a.toNat then .segaWDirect a v
        else if 0x8000 ≤ a.toNat ∧ r = true then .segaWWin2Cram a v
        else .segaWRest a v) := by
  rw [decodeAccess_sega_write, if_neg (by omega), if_neg (by omega), if_neg (by omega), if_neg (by omega)]

theorem inDirect_iff {a : Addr} : inDirect a = true ↔ 0xC000 ≤ a.toNat := decide_eq_true_iff

theorem inWindows_iff {a : Addr} : inWindows a = true ↔ ¬ 0xC000 ≤ a.toNat := by
  simp [inWindows]

theorem inSegaDirect_iff {a : Addr} : inSegaDirect a = true ↔ ¬ 0xFFFC ≤ a.toNat ∧ 0xC000 ≤ a.toNat := by
  simp [inSegaDirect, and_comm]

theorem inWindow2_iff {a : Addr} : inWindow2 a = true ↔ 0x8000 ≤ a.toNat ∧ ¬ 0xC000 ≤ a.toNat := by
  simp [inWindow2]

/-- The addresses below 0xC000 lie below the Sega registers. -/
theorem not_segaReg_of_not_direct {a : Addr} (ha : ¬ 0xC000 ≤ a.toNat) : ¬ 0xFFFC ≤ a.toNat := by
  omega

/-- For a command, the four fields come back out of the word and the operands out of the fields. For an address-decode
row, the well-formed addresses are those for which no row of higher priority wins. -/
theorem decode_encode {i : Instr} (h : i.wellFormed = true) : decode (encode i) = .ok i := by
  cases i with
  | read | write | init | reset | loadrom | setrule | getrule | retrieve | load | statesize | savestate | loadstate
  | bpadd | bpremove | bpcount | bplist | runtoset | runtoclear | getrunto | rombank | rambank | peekrom | peekcram
  | pokecram => simp [encode, cmdCode, decode, decodeWord]
  | segaWCtrl | segaWX0 | segaWX1 | segaWX2 | codemastersWX0 | codemastersWX1 | codemastersWX2 | koreanWX2 =>
    simp [encode, decode]
  | noneRDirect | noneWDirect | romOnlyRDirect | romOnlyWDirect | sg1000RDirect | sg1000WDirect | codemastersRDirect
  | koreanRDirect => simp [encode, decode, inDirect_iff.mp h]
  | noneRRest | noneWRest | romOnlyRRest | romOnlyWRest | sg1000RRest | sg1000WRest | codemastersRRest
  | koreanRRest => simp [encode, decode, inWindows_iff.mp h]
  | segaRRegs => simp [encode, decode, of_decide_eq_true h]
  | segaRDirect => simp [encode, decode, inSegaDirect_iff.mp h]
  | segaWDirect =>
    obtain ⟨hreg, hdir⟩ := inSegaDirect_iff.mp h
    simp [encode, decode, decodeAccess_sega_write_low hreg, hdir]
  | segaRWin2Cram | segaRWin2Rom =>
    obtain ⟨hwin, hdir⟩ := inWindow2_iff.mp h
    simp [encode, decode, not_segaReg_of_not_direct hdir, hdir, hwin]
  | segaWWin2Cram =>
    obtain ⟨hwin, hdir⟩ := inWindow2_iff.mp h
    simp [encode, decode, decodeAccess_sega_write_low (not_segaReg_of_not_direct hdir), hdir, hwin]
  | segaRWin01 a =>
    have hlow : a.toNat < 0x8000 := of_decide_eq_true h
    have hdir : ¬ 0xC000 ≤ a.toNat := by omega
    simp [encode, decode, not_segaReg_of_not_direct hdir, hdir, hlow]
  | segaWRest =>
    have hdir := inWindows_iff.mp h
    simp [encode, decode, decodeAccess_sega_write_low (not_segaReg_of_not_direct hdir), hdir]
  | codemastersWDirect a v =>
    have hdir := inDirect_iff.mp h
    change decodeAccess .codemasters .write false a v = _
    rw [decodeAccess_codemasters_write, if_neg (by omega), if_neg (by omega), if_neg (by omega), if_pos hdir]
  | codemastersWRest =>
    simp only [Instr.wellFormed, Bool.and_eq_true, inWindows_iff, decide_eq_true_eq] at h
    simp [encode, decode, h]
  | koreanWDirect a v =>
    have hdir := inDirect_iff.mp h
    change decodeAccess .korean .write false a v = _
    rw [decodeAccess_korean_write, if_neg (by omega), if_pos hdir]
  | koreanWRest =>
    simp only [Instr.wellFormed, Bool.and_eq_true, inWindows_iff, decide_eq_true_eq] at h
    simp [encode, decode, h]

/-- Settles O2: `decode_encode`. -/
theorem decodeInvertsEncode : Obligations.DecodeInvertsEncode := fun _ => decode_encode

/-! ### The row of a row's instruction -/

/-- The rows' instructions stand in the table's order after the 24 commands. -/
theorem Row.instr_ctorIdx (row : Row) (a : Addr) (v : Byte) : (row.instr a v).ctorIdx = 24 + row.ctorIdx := by
  cases row <;> rfl

/-- An instruction is that of one row at most. -/
theorem Row.eq_of_instr_eq {row row' : Row} {a b : Addr} {v v' : Byte} (h : row.instr a v = row'.instr b v') :
    row = row' := by
  have hidx : row.ctorIdx = row'.ctorIdx := by
    have := congrArg Instr.ctorIdx h
    rw [Row.instr_ctorIdx, Row.instr_ctorIdx] at this
    omega
  rw [← Row.ofNat_ctorIdx row, hidx, Row.ofNat_ctorIdx]

/-- An access decodes to the instruction of the row it selects and of no other. -/
theorem selectRow_of_decodeAccess {fam : Family} {dir : Dir} {r : Bool} {a b : Addr} {v : Byte} {row : Row}
    (h : decodeAccess fam dir r b v = .ok (row.instr a v)) :
    selectRow fam dir r b = some row ∧ row.instr b v = row.instr a v := by
  obtain ⟨row', hsel⟩ := selectRow_total fam dir r b
  rw [decodeAccess_of_selectRow hsel] at h
  have hinstr : row'.instr b v = row.instr a v := Except.ok.inj h
  obtain rfl := Row.eq_of_instr_eq hinstr
  exact ⟨hsel, hinstr⟩

/-! ### The address of a row's access -/

/-- The address that the access of a row's instruction is made at: the row's own, where its mask leaves none open, and
else the instruction's operand (R95, R96). -/
def RowSpec.address (q : RowSpec) (a : Addr) : Addr := if q.mask = 0xFFFF#16 then q.pat else a

@[simp] theorem RowSpec.address_address (q : RowSpec) (a : Addr) : q.address (q.address a) = q.address a := by
  unfold RowSpec.address
  split_ifs <;> rfl

/-- A row that matches an access has its own access there. -/
theorem RowSpec.address_of_hits {q : RowSpec} {fam : Family} {dir : Dir} {r : Bool} {a : Addr}
    (h : q.hits fam dir r a = true) : q.address a = a := by
  simp only [RowSpec.hits, Bool.and_eq_true, decide_eq_true_eq] at h
  obtain ⟨⟨-, hpat⟩, -⟩ := h
  unfold RowSpec.address
  split_ifs with hm
  · rw [← hpat, hm, mask_all]
  · rfl

/-- The instruction of a row depends on the operand `a` only as far as its access does. -/
theorem instr_eq_iff {q : RowSpec} (hq : q ∈ addrTable) {a b : Addr} {v : Byte} :
    q.row.instr a v = q.row.instr b v ↔ q.address a = q.address b := by
  fin_cases hq <;> simp [Row.instr, RowSpec.address]

/-- No row stands twice in the table. -/
theorem addrTable_row_injOn {q q' : RowSpec} (hq : q ∈ addrTable) (hq' : q' ∈ addrTable) (h : q.row = q'.row) :
    q = q' :=
  List.inj_on_of_nodup_map (f := RowSpec.row) (by decide) hq hq' h

/-- The selected row's own access is the one that selects it. -/
theorem address_of_selectRow {q : RowSpec} (hq : q ∈ addrTable) {fam : Family} {dir : Dir} {r : Bool} {a : Addr}
    (h : selectRow fam dir r a = some q.row) : q.address a = a := by
  obtain ⟨q', hfind, hrow⟩ := Option.map_eq_some_iff.mp h
  obtain rfl := addrTable_row_injOn (List.mem_of_find?_eq_some hfind) hq hrow
  have hhits := List.find?_some hfind
  exact RowSpec.address_of_hits hhits

end Sys2Proof

namespace Sys2Proof.Machine

/-- The meaning of a row's instruction completes where the state selects the row for its access, and is refused by the
row's name elsewhere (R95; log entry 12). -/
theorem exec_rowInstr {q : RowSpec} (hq : q ∈ addrTable) (s : State) (a : Addr) (v : Byte) :
    ∃ t, exec (q.row.instr a v) s =
      if s.selects q.row q.dir (q.address a) then .next t else .refused (.rowNotSelected q.row) := by
  fin_cases hq <;> exact ⟨_, rfl⟩

/-- The state selects the row for its access where some access decodes to the row's instruction. -/
theorem selects_iff_decodeAccess {q : RowSpec} (hq : q ∈ addrTable) {s : State} {a : Addr} {v : Byte} :
    s.selects q.row q.dir (q.address a) = true ↔
      ∃ b, decodeAccess s.family q.dir (s.ctrl.getLsbD 3) b v = .ok (q.row.instr a v) := by
  unfold State.selects
  rw [decide_eq_true_iff]
  constructor
  · intro hsel
    refine ⟨q.address a, (decodeAccess_of_selectRow hsel v).trans ?_⟩
    rw [(instr_eq_iff hq).mpr (q.address_address a)]
  · rintro ⟨b, hb⟩
    obtain ⟨hsel, hinstr⟩ := selectRow_of_decodeAccess hb
    rwa [← (instr_eq_iff hq).mp hinstr, address_of_selectRow hq hsel]

/-- Settles O18: both sides are the state's choice of the row for the row's own access. -/
theorem rowCompletesExactlyWhereSelected : Obligations.RowCompletesExactlyWhereSelected := by
  intro q hq s a v
  obtain ⟨t, ht⟩ := exec_rowInstr hq s a v
  refine ⟨fun hdec => ⟨t, ?_⟩, fun hnone => ?_⟩
  · rw [ht, if_pos ((selects_iff_decodeAccess hq).mpr hdec)]
  · rw [ht, if_neg fun hsel => not_exists.mpr hnone ((selects_iff_decodeAccess hq).mp hsel)]

end Sys2Proof.Machine
end

section
/-! The command word, the response word and the family tag of R90 to R102: their layouts (O3, O4), the tag table (O5),
words written out from the spec (O1), and which words are illegal and what answers them (O10). -/

namespace Sys2Proof

/-! ### Words -/

/-- Every word is made of its four fields (R90). -/
theorem mkWord_fields (w : CmdWord) : mkWord (cmdField w) (aField w) (pField w) (dField w) = w := by
  apply BitVec.eq_of_toNat_eq
  rw [Laws.TableRow.mkWord_toNat]
  simp only [cmdField, aField, pField, dField, BitVec.extractLsb'_toNat, Nat.shiftRight_eq_div_pow]
  have := w.isLt
  omega

theorem payloadLength_eq (w : CmdWord) : payloadLength w =
    if (cmdField w).toNat = 0x12 ∨ (cmdField w).toNat = 0x32 then (aField w).toNat else 0 := by
  simp only [payloadLength, ← BitVec.toNat_inj]
  split_ifs <;> simp_all

theorem commandPort_eq_cpu_iff (c : Byte) : commandPort c = .cpu ↔ c.toNat ≤ 1 := by
  unfold commandPort
  split_ifs with h0 h1
  · simp [h0]
  · simp [h1]
  · exact iff_of_false nofun (by bv_omega)

/-- Settles O3: a word is the one made of its fields, whose number `mkWord_toNat` gives. -/
theorem commandWordLayout : Obligations.CommandWordLayout := by
  intro w
  refine ⟨?_, payloadLength_eq w, commandPort_eq_cpu_iff _⟩
  rw [← Laws.TableRow.mkWord_toNat, mkWord_fields]

/-! ### Family tags -/

/-- `Family.ofTag` reads the table of R99 backwards. -/
theorem Family.ofTag_eq_some_iff {t : Byte} {f : Family} : Family.ofTag t = some f ↔ f.tag = t := by
  constructor
  · intro h
    unfold Family.ofTag at h
    split_ifs at h <;> cases h <;> symm <;> assumption
  · rintro rfl
    exact Family.ofTag_tag f

theorem Family.tag_toNat_lt (f : Family) : f.tag.toNat < 6 := by
  cases f <;> decide

theorem Family.ofTag_eq_none_iff {t : Byte} : Family.ofTag t = none ↔ 6 ≤ t.toNat := by
  constructor
  · intro h
    unfold Family.ofTag at h
    split_ifs at h
    bv_omega
  · intro h
    refine Option.eq_none_iff_forall_ne_some.mpr fun f hf => ?_
    have := f.tag_toNat_lt
    rw [Family.ofTag_eq_some_iff.mp hf] at this
    omega

/-- Settles O5: `Family.ofTag` is the inverse of `Family.tag`, and a tag is below 6. -/
theorem familyTagTable : Obligations.FamilyTagTable :=
  ⟨rfl, rfl, rfl, rfl, rfl, rfl, fun _ => ⟨Family.ofTag_eq_none_iff, fun _ => Family.ofTag_eq_some_iff⟩⟩

/-- Settles O1: the decoders evaluate on the fixed words. -/
theorem decodeOfWordsFromTheSpec : Obligations.DecodeOfWordsFromTheSpec :=
  ⟨rfl, rfl, rfl, rfl, rfl, rfl, rfl, rfl, rfl, rfl, rfl⟩

end Sys2Proof

namespace Sys2Proof.Machine

/-! ### The response word -/

theorem Status.code_toNat_lt (st : Status) : st.code.toNat < 8 := by
  cases st <;> decide

theorem Response.word_toNat (r : Response) :
    r.word.toNat = r.status.code.toNat * 2 ^ 32 + r.rdata.toNat * 2 ^ 24 + r.rval.toNat := by
  have := r.rdata.isLt
  have := r.rval.isLt
  simp only [Response.word, BitVec.toNat_append]
  rw [← Nat.shiftLeft_add_eq_or_of_lt r.rval.isLt, ← Nat.shiftLeft_add_eq_or_of_lt r.rdata.isLt]
  simp only [Nat.shiftLeft_eq]
  omega

/-- Settles O4: `Response.word_toNat` and the bound on the codes; the codes themselves are the definition's. -/
theorem responseWordLayout : Obligations.ResponseWordLayout :=
  ⟨fun r => ⟨r.word_toNat, r.status.code_toNat_lt⟩, rfl, rfl, rfl, rfl, rfl, rfl, rfl, rfl⟩

/-! ### Illegal words -/

/-- R102 (a): a reserved code decodes to no command. -/
theorem decodeWord_reserved {w : CmdWord} (data : ByteSeq) (h : cmdField w ∉ commandCodes) :
    ∃ e, decodeWord w data = .error e := by
  revert h
  apply decodeWord_cases w data fun c d => c ∉ commandCodes → ∃ e, d = .error e
  case reserved => exact fun _ _ => ⟨_, rfl⟩
  case read | readWide | write | writeWide | retrieve | retrieveWide | load | loadWide =>
    exact fun _ h => absurd (by decide) h
  all_goals exact fun h => absurd (by decide) h

/-- R102 (b): a 16-bit address command with a wider address decodes to no command. -/
theorem decodeWord_wide {w : CmdWord} (data : ByteSeq) (hc : cmdField w ∈ ([0x00, 0x01, 0x20, 0x21] : List Byte))
    (ha : 0xFFFF < (aField w).toNat) : ∃ e, decodeWord w data = .error e := by
  revert hc
  apply decodeWord_cases w data fun c d => c ∈ ([0x00, 0x01, 0x20, 0x21] : List Byte) → ∃ e, d = .error e
  case readWide | writeWide | retrieveWide | loadWide | reserved => exact fun _ _ => ⟨_, rfl⟩
  case read | write | retrieve | load => intro hn; omega
  all_goals exact fun h => absurd h (by decide)

/-- The code 0x13 is SETRULE, whatever the tag (R92; log entry 10). -/
theorem decodeWord_setrule {w : CmdWord} (data : ByteSeq) (h : cmdField w = 0x13) :
    decodeWord w data = .ok (.setrule (dField w)) := by
  unfold decodeWord
  rw [h]
  rfl

/-- R102 (c): the tags that SETRULE may not name are no family's, or that of no rule. -/
theorem ofTag_of_illegal {t : Byte} (h : t.toNat = 0 ∨ 5 < t.toNat) :
    Family.ofTag t = some .noRule ∨ Family.ofTag t = none := by
  rw [Family.ofTag_eq_some_iff, Family.ofTag_eq_none_iff]
  exact h.imp (fun h0 => BitVec.eq_of_toNat_eq h0.symm) id

theorem exec_setrule_illegal {t : Byte} (h : t.toNat = 0 ∨ 5 < t.toNat) (s : State) :
    exec (.setrule t) s = .next s.illegalWord := by
  change execSetrule t s = _
  unfold execSetrule
  rcases ofTag_of_illegal h with h | h <;> rw [h] <;> rfl

theorem illegalCmd_notMem_statuses_setrule {t : Byte} (h0 : t.toNat ≠ 0) (h5 : t.toNat ≤ 5) :
    Status.illegalCmd ∉ (Instr.setrule t).statuses := by
  rcases hf : Family.ofTag t with _ | f
  · have := Family.ofTag_eq_none_iff.mp hf
    omega
  · cases f with
    | noRule =>
      rw [← Family.ofTag_eq_some_iff.mp hf] at h0
      exact absurd rfl h0
    | _ => simp [Instr.statuses, hf]

/-- A legal word decodes to a command that cannot answer `ILLEGAL_CMD`. -/
theorem decodeWord_legal {w : CmdWord} (data : ByteSeq) (h : ¬ IllegalWord w) :
    ∃ i, decodeWord w data = .ok i ∧ .illegalCmd ∉ i.statuses := by
  unfold IllegalWord at h
  push Not at h
  obtain ⟨hcode, hnarrow, htag⟩ := h
  revert hcode hnarrow htag
  apply decodeWord_cases w data fun c d =>
    c ∈ commandCodes → (c ∈ ([0x00, 0x01, 0x20, 0x21] : List Byte) → (aField w).toNat ≤ 0xFFFF) →
    (c = 0x13 → (dField w).toNat ≠ 0 ∧ (dField w).toNat ≤ 5) → ∃ i, d = .ok i ∧ .illegalCmd ∉ i.statuses
  case reserved => exact fun hr hc => absurd hc hr
  case readWide | writeWide | retrieveWide | loadWide =>
    intro hw _ hnarrow
    have := hnarrow (by decide)
    omega
  case setrule =>
    intro _ _ htag
    obtain ⟨h0, h5⟩ := htag rfl
    exact ⟨_, rfl, illegalCmd_notMem_statuses_setrule h0 h5⟩
  case read | write | retrieve | load => exact fun _ _ _ _ => ⟨_, rfl, by simp [Instr.statuses]⟩
  all_goals exact fun _ _ _ => ⟨_, rfl, by simp [Instr.statuses]⟩

/-- A step that takes an illegal word answers `ILLEGAL_CMD`: its word decodes to no command, or to a SETRULE whose
meaning gives that answer. -/
theorem step_illegalWord {s : State} {r : Request} {rest : List Request} (h : s.inbox = r :: rest) (hr : r.Proper)
    (hi : s.initialised = true) (hw : IllegalWord r.word) :
    step s = .next ({ s with inbox := rest } : State).illegalWord := by
  obtain hcode | ⟨hcode, hwide⟩ | ⟨hcode, htag⟩ := hw
  · obtain ⟨e, hd⟩ := decodeWord_reserved r.payload hcode
    exact step_illegal h hr (.inl hi) hd
  · obtain ⟨e, hd⟩ := decodeWord_wide r.payload hcode hwide
    exact step_illegal h hr (.inl hi) hd
  · rw [step_decoded h hr (.inl hi) (decodeWord_setrule r.payload hcode), exec_setrule_illegal htag]

/-- Neither LOADROM nor LOADSTATE has an illegal form. -/
theorem IllegalWord.payloadLength_eq_zero {w : CmdWord} (h : IllegalWord w) : payloadLength w = 0 := by
  have hcode : cmdField w ≠ 0x12 ∧ cmdField w ≠ 0x32 := by
    constructor <;> intro hc <;> simp [IllegalWord, hc, commandCodes] at h
  rw [payloadLength, if_neg hcode.1, if_neg hcode.2]

/-- Settles O10: `step_illegalWord`, and for a legal word `step_answers` with a status of the decoded command. -/
theorem illegalWordsAreAnswered : Obligations.IllegalWordsAreAnswered := by
  intro s r rest h hr hi
  refine ⟨fun hw => ⟨step_illegalWord h hr hi hw, hw.payloadLength_eq_zero⟩, fun hw => ?_⟩
  obtain ⟨i, hd, hst⟩ := decodeWord_legal r.payload hw
  obtain ⟨t, hs, -, -, q, hq, hmem⟩ := step_answers h hr (.inl hi)
  rw [hd] at hmem
  exact ⟨t, q, hs, hq, fun he => hst (he ▸ hmem)⟩

end Sys2Proof.Machine
end

section
/-! A bank select is in effect for the next READ of its window (O17). -/

namespace Sys2Proof.Machine

/-- Below 0xC000 the banked families read the image through `PHYS`, but for the cartridge RAM of Sega's window 2
(R152, R171, R181). -/
theorem State.memRead_banked {s : State} {a : Addr} (ha : a.toNat < 0xC000)
    (hf : (s.family = .sega ∧ (win a = 2 → ramen s.ctrl = false)) ∨ s.family = .codemasters ∨ s.family = .korean) :
    s.memRead a = s.rom.get (s.phys a) := by
  rw [State.memRead_eq, if_pos (delegated_iff.mpr (.inl ha))]
  obtain ⟨hf, hwin⟩ | hf | hf := hf
  · rw [hf]
    have hreg : ¬ Config.segaRegBase ≤ a.toNat := by simp only [Config.segaRegBase]; omega
    have hram : ¬ (win a = 2 ∧ ramen s.ctrl = true) := fun ⟨h2, hc⟩ => by simp [hwin h2] at hc
    simp only [if_neg hreg, if_neg hram]
  · rw [hf]
  · rw [hf]

/-- `t` is `s` with the bank register of window `w` holding `v`, as far as the translation of that window looks. -/
structure State.SelectedBank (s t : State) (w : Nat) (v : Byte) : Prop where
  family : t.family = s.family
  rom : t.rom = s.rom
  ctrl : t.ctrl = s.ctrl
  bank : t.x w = v

theorem State.setX0_selectedBank (s : State) (v : Byte) : s.SelectedBank (s.setX0 v) 0 v := ⟨rfl, rfl, rfl, rfl⟩

theorem State.setX1_selectedBank (s : State) (v : Byte) : s.SelectedBank (s.setX1 v) 1 v := ⟨rfl, rfl, rfl, rfl⟩

theorem State.setX2_selectedBank (s : State) (v : Byte) : s.SelectedBank (s.setX2 v) 2 v := ⟨rfl, rfl, rfl, rfl⟩

theorem State.writeEffect_sega_select {s : State} (hf : s.family = .sega) {w : Nat} (hw : w < 3) (v : Byte) :
    s.SelectedBank (s.writeEffect (BitVec.ofNat 16 (0xFFFD + w)) v) w v := by
  unfold State.writeEffect
  rw [hf]
  interval_cases w
  · exact s.setX0_selectedBank v
  · exact s.setX1_selectedBank v
  · exact s.setX2_selectedBank v

theorem State.writeEffect_codemasters_select {s : State} (hf : s.family = .codemasters) {w : Nat} (hw : w < 3)
    (v : Byte) : s.SelectedBank (s.writeEffect (BitVec.ofNat 16 (w * 16384)) v) w v := by
  unfold State.writeEffect
  rw [hf]
  interval_cases w
  · exact s.setX0_selectedBank v
  · exact s.setX1_selectedBank v
  · exact s.setX2_selectedBank v

theorem State.writeEffect_korean_select {s : State} (hf : s.family = .korean) (v : Byte) :
    s.SelectedBank (s.writeEffect 0xA000 v) 2 v := by
  unfold State.writeEffect
  rw [hf]
  exact s.setX2_selectedBank v

/-- A WRITE that selects the bank of a window that shows the image, and then a READ in the window (R77, R97). -/
theorem exec_write_read_selected {s : State} {w : Nat} {a b : Addr} {v : Byte} (hw : w < 3) (ha : a.toNat / 16384 = w)
    (hf : (s.family = .sega ∧ (w = 2 → s.ctrl.getLsbD 3 = false)) ∨ s.family = .codemasters ∨ s.family = .korean)
    (hsel : (s.runToCheck b).SelectedBank ((s.runToCheck b).writeEffect b v) w v) (p p' : BitVec 16) :
    ∃ t u, exec (.write b p v) s = .next t ∧ exec (.read a p') t = .next u ∧
      u.response = some (resp .ok (s.rom.get (v.toNat % (s.rom.size / 16384) * 16384 + a.toNat % 16384)) 0) := by
  refine ⟨_, _, exec_write s b p v, exec_read _ a p', ?_⟩
  obtain ⟨hfam, hrom, hctrl, hbank⟩ := hsel
  generalize (s.runToCheck b).writeEffect b v = t at *
  have hread : t.done.memRead a = t.done.rom.get (t.done.phys a) := by
    refine State.memRead_banked (by omega) ?_
    subst ha
    simpa [hfam, hctrl, win, ramen] using hf
  have hphys : t.done.phys a = v.toNat % (s.rom.size / 16384) * 16384 + a.toNat % 16384 := by
    change (t.x (win a)).toNat % (t.rom.size / 16384) * 16384 + a.toNat % 16384 = _
    rw [show win a = w from ha, hbank, hrom]
    rfl
  rw [hread, hphys, State.done_rom, hrom]
  rfl

/-- Settles O17: each family's WRITE selects the bank, and the READ translates through it. -/
theorem bankSelectTakesEffectAtOnce : Obligations.BankSelectTakesEffectAtOnce := by
  intro s w a v p p' hw ha
  refine ⟨fun hf hram => ?_, fun hf => ?_, fun hf h2 => ?_⟩
  · exact exec_write_read_selected hw ha (.inl ⟨hf, hram⟩)
      (State.writeEffect_sega_select (s := s.runToCheck _) hf hw v) p p'
  · exact exec_write_read_selected hw ha (.inr (.inl hf))
      (State.writeEffect_codemasters_select (s := s.runToCheck _) hf hw v) p p'
  · subst h2
    exact exec_write_read_selected hw ha (.inr (.inr hf))
      (State.writeEffect_korean_select (s := s.runToCheck _) hf v) p p'

end Sys2Proof.Machine
end

section
/-! The CPU commands (R120 to R129): the byte that a READ returns (O11, O14), everything that a WRITE changes (O12), that
`P` has no effect (O13), and the rows below 0xC000 that answer a fixed byte, read an unbanked image or ignore the write
(O21, O22). -/

namespace Sys2Proof

/-! ### The command words of READ and WRITE -/

theorem decodeWord_mkWord_read (a : Num24) (p : BitVec 16) (d : Byte) (q : ByteSeq) :
    decodeWord (mkWord 0x00 a p d) q = withAddr16 a fun x => .read x p := by
  simp [decodeWord]

theorem decodeWord_mkWord_write (a : Num24) (p : BitVec 16) (d : Byte) (q : ByteSeq) :
    decodeWord (mkWord 0x01 a p d) q = withAddr16 a fun x => .write x p d := by
  simp [decodeWord]

end Sys2Proof

namespace Sys2Proof.Machine

/-! ### The byte that a READ returns -/

theorem State.x_win (s : State) (a : Addr) :
    s.x (win a) = if a.toNat < 0x4000 then s.x0 else if a.toNat < 0x8000 then s.x1 else s.x2 := by
  simp only [State.x, win, Config.bankSize]
  grind

theorem State.cramIndex_eq (s : State) (a : Addr) :
    s.cramIndex a = (if s.ctrl.getLsbD 2 then 16384 else 0) + a.toNat % 16384 := by
  unfold State.cramIndex rambank off
  split_ifs <;> simp

theorem State.memRead_noRule {s : State} {a : Addr} (hf : s.family = .noRule) (ha : a.toNat < 0xC000) :
    s.memRead a = 0xFF := by
  rw [State.memRead_eq, if_pos (delegated_iff.mpr (.inl ha)), hf]

theorem State.memRead_unbanked {s : State} {a : Addr} (hf : s.family = .romOnly ∨ s.family = .sg1000)
    (ha : a.toNat < 0xC000) : s.memRead a = s.rom.get (a.toNat % s.rom.size) := by
  rw [State.memRead_eq, if_pos (delegated_iff.mpr (.inl ha))]
  rcases hf with hf | hf <;> rw [hf] <;> rfl

theorem State.memRead_segaReg {s : State} {a : Addr} (hf : s.family = .sega) (ha : 0xFFFC ≤ a.toNat) :
    s.memRead a = s.segaReg (a.toNat - 0xFFFC) := by
  rw [State.memRead_eq, if_pos (delegated_iff.mpr (.inr ⟨hf, ha⟩)), hf]
  exact if_pos ha

theorem State.memRead_segaCram {s : State} {a : Addr} (hf : s.family = .sega) (hlo : 0x8000 ≤ a.toNat)
    (hhi : a.toNat < 0xC000) (hc : ramen s.ctrl = true) : s.memRead a = s.cram.read (s.cramIndex a) := by
  have hreg : ¬ Config.segaRegBase ≤ a.toNat := by simp only [Config.segaRegBase]; omega
  have hwin : win a = 2 := by simp only [win, Config.bankSize]; omega
  rw [State.memRead_eq, if_pos (delegated_iff.mpr (.inl hhi)), hf]
  simp only [if_neg hreg, if_pos (And.intro hwin hc)]

/-- Settles O11: the byte is that of `Resolve`, and one lemma says what it is for each kind of place. -/
theorem readReturnsTheResolvedByte : Obligations.ReadReturnsTheResolvedByte := by
  refine ⟨fun a p d q => (decodeWord_mkWord_read ..).trans (withAddr16_a16 a _), rfl,
    fun s a p => ⟨s.memRead a, exec_read s a p, rfl, ?_⟩⟩
  refine ⟨fun ha hs => State.memRead_of_direct (not_delegated ha hs), fun ha hf => State.memRead_noRule hf ha,
    fun ha hf => State.memRead_unbanked hf ha, fun hf ha => ?_, fun hf ha => ?_, fun hf ha => ?_, fun hf ha => ?_,
    fun hf hlo hhi hc => ?_, fun hf ha => ?_⟩
  iterate 4 rw [State.memRead_segaReg hf (by omega), ha]; rfl
  · rw [State.memRead_segaCram hf hlo hhi hc, State.cramIndex_eq]
  · rw [State.memRead_banked ha (hf.imp_left fun ⟨hsega, hram⟩ => ⟨hsega, fun hwin => ?_⟩), State.phys, State.bank,
      State.x_win]
    · rfl
    · have hlo : 0x8000 ≤ a.toNat := by simp only [win, Config.bankSize] at hwin; omega
      exact Bool.eq_false_iff.mpr fun hc => hram ⟨hlo, hc⟩

/-- The elements of R255 hold all that a READ's byte depends on: the debug registers are not among them. -/
theorem State.SameMachine.memRead {s t : State} (h : s.SameMachine t) (a : Addr) : t.memRead a = s.memRead a := by
  have hx (w : Nat) : t.x w = s.x w := by simp only [State.x, h.x0, h.x1, h.x2]
  have hlin : t.lin a = s.lin a := by simp only [State.lin, h.rom]
  have hphys : t.phys a = s.phys a := by simp only [State.phys, State.bank, State.nb, hx, h.rom]
  have hcram : t.cramIndex a = s.cramIndex a := by simp only [State.cramIndex, h.ctrl]
  have hreg (i : Nat) : t.segaReg i = s.segaReg i := by simp only [State.segaReg, h.x0, h.x1, h.x2, h.ctrl]
  simp only [State.memRead_eq, h.map, h.family, h.rom, h.cram, h.ctrl, hlin, hphys, hcram, hreg]

/-- Settles O14: `exec_read` in both states, with the same byte by `State.SameMachine.memRead`. -/
theorem readIsPure : Obligations.ReadIsPure := by
  intro s s' a p p' h
  refine ⟨s.memRead a, (s.runToCheck a).runtoHit, (s'.runToCheck a).runtoHit, exec_read s a p, ?_⟩
  rw [exec_read, h.memRead]
  rfl

/-! ### Everything that a WRITE changes -/

theorem not_delegated_iff {fam : Family} {a : Addr} :
    ¬ delegated fam a = true ↔ 0xC000 ≤ a.toNat ∧ (fam = .sega → a.toNat < 0xFFFC) := by
  simp [delegated_iff]

theorem State.writeEffect_direct {s : State} {a : Addr} (h : ¬ delegated s.family a = true) (v : Byte) :
    s.writeEffect a v = s.storeMap a v := if_pos h

/-- `t` holds `v` in the one element of `s` that a WRITE at `a` selects, if it selects one, and else what `s` holds: a
byte of `MAP` at a direct address (R64), a byte of `CRAM` in Sega's window 2 while it is mapped (R159), or a register at
its select location (R155 to R158, R172 to R174, R182). -/
structure State.StoredAt (s : State) (a : Addr) (v : Byte) (t : State) : Prop where
  map : t.map = if delegated s.family a then s.map else s.map.write a.toNat v
  cram : t.cram = if s.family = .sega ∧ 0x8000 ≤ a.toNat ∧ a.toNat < 0xC000 ∧ ramen s.ctrl = true then
    s.cram.write (s.cramIndex a) v else s.cram
  ctrl : t.ctrl = if s.family = .sega ∧ a.toNat = 0xFFFC then v else s.ctrl
  x0 : t.x0 = if (s.family = .sega ∧ a.toNat = 0xFFFD) ∨ (s.family = .codemasters ∧ a.toNat = 0x0000)
    then v else s.x0
  x1 : t.x1 = if (s.family = .sega ∧ a.toNat = 0xFFFE) ∨ (s.family = .codemasters ∧ a.toNat = 0x4000)
    then v else s.x1
  x2 : t.x2 = if (s.family = .sega ∧ a.toNat = 0xFFFF) ∨ (s.family = .codemasters ∧ a.toNat = 0x8000) ∨
    (s.family = .korean ∧ a.toNat = 0xA000) then v else s.x2

/-- No select location is a direct address, and neither is an address of window 2. -/
theorem State.storeMap_storedAt {s : State} {a : Addr} (h : ¬ delegated s.family a = true) (v : Byte) :
    s.StoredAt a v (s.storeMap a v) := by
  have hdir := not_delegated_iff.mp h
  constructor
  case map => exact (if_neg h).symm
  all_goals exact (if_neg (by grind)).symm

theorem State.writeEffect_storedAt (s : State) (a : Addr) (v : Byte) : s.StoredAt a v (s.writeEffect a v) := by
  by_cases hdel : delegated s.family a = true
  · rw [State.writeEffect, if_neg (not_not.mpr hdel)]
    cases hf : s.family with
    | noRule | romOnly | sg1000 => constructor <;> simp [hf, hf ▸ hdel]
    | codemasters | korean =>
      dsimp only
      split_ifs <;> constructor <;> simp [hf ▸ hdel, *]
    | sega =>
      have hlow : a.toNat < 0xC000 ∨ 0xFFFC ≤ a.toNat := (delegated_iff.mp hdel).imp_right And.right
      dsimp only
      split_ifs with hctrl hx0 hx1 hx2
      iterate 4 constructor <;> simp [hf ▸ hdel, *]
      -- Below the registers a delegated address from 0x8000 on is one of window 2.
      all_goals
        have : a.toNat < 0xC000 := by have := a.isLt; omega
        constructor <;> simp [hf ▸ hdel, *]
  · rw [State.writeEffect_direct hdel]
    exact State.storeMap_storedAt hdel v

theorem State.StoredAt.read_map {s t : State} {a : Addr} {v : Byte} (h : s.StoredAt a v t) (b : Nat) : t.map.read b =
    if b = a.toNat ∧ 0xC000 ≤ a.toNat ∧ (s.family = .sega → a.toNat < 0xFFFC) then v else s.map.read b := by
  rw [h.map]
  by_cases hdel : delegated s.family a = true
  · rw [if_pos hdel, if_neg fun hc => not_delegated_iff.mpr hc.2 hdel]
  · simp only [if_neg hdel, Memory.read_write, and_iff_left (not_delegated_iff.mp hdel)]

theorem State.StoredAt.read_cram {s t : State} {a : Addr} {v : Byte} (h : s.StoredAt a v t) (n : Nat) : t.cram.read n =
    if s.family = .sega ∧ 0x8000 ≤ a.toNat ∧ a.toNat < 0xC000 ∧ s.ctrl.getLsbD 3 = true ∧
      n = (if s.ctrl.getLsbD 2 then 16384 else 0) + a.toNat % 16384 then v else s.cram.read n := by
  rw [h.cram]
  by_cases hc : s.family = .sega ∧ 0x8000 ≤ a.toNat ∧ a.toNat < 0xC000 ∧ ramen s.ctrl = true
  · rw [if_pos hc, Memory.read_write, State.cramIndex_eq]
    unfold ramen at hc
    simp [hc]
  · rw [if_neg hc, if_neg fun ⟨hf, hlo, hhi, hram, _⟩ => hc ⟨hf, hlo, hhi, hram⟩]

/-- Settles O12: `State.writeEffect_storedAt`, with the two memories read byte by byte. -/
theorem writeChangesOnlyWhatItSelects : Obligations.WriteChangesOnlyWhatItSelects := by
  refine ⟨fun a p d q => (decodeWord_mkWord_write ..).trans (withAddr16_a16 a _), rfl, fun s a p v => ?_⟩
  have hst := (s.runToCheck a).writeEffect_storedAt a v
  have hexec := exec_write s a p v
  rw [State.writeEffect_frame] at hexec
  exact ⟨_, _, _, _, _, _, hexec, hst.read_map, hst.read_cram, hst.ctrl, hst.x0, hst.x1, hst.x2⟩

/-! ### The operand `P` -/

theorem protocolRefusal_mkWord_pc (s : State) (port : Port) (timing : Timing) (q : ByteSeq) (c : Byte) (a : Num24)
    (p p' : BitVec 16) (d : Byte) :
    protocolRefusal ⟨port, timing, mkWord c a p d, q⟩ s = protocolRefusal ⟨port, timing, mkWord c a p' d, q⟩ s := by
  simp [protocolRefusal, payloadLength]

/-- What a step does with the result of decoding a command that keeps the protocol (`step_perform`): it runs the
instruction, or answers the illegal word. -/
def State.perform (s : State) : Except Reject Instr → Result
  | .error _ => .next s.illegalWord
  | .ok i => exec i s

theorem step_perform {s : State} {r : Request} {rest : List Request} (h : s.inbox = r :: rest)
    (hp : protocolRefusal r s = none) : step s = ({ s with inbox := rest } : State).perform (fetchDecode r) := by
  rw [step_command h hp]
  cases fetchDecode r <;> rfl

/-- Two commands that the protocol treats alike and that do the same make the same step. -/
theorem step_congr {s : State} {r r' : Request} {rest : List Request}
    (hp : protocolRefusal r s = protocolRefusal r' s)
    (hd : ({ s with inbox := rest } : State).perform (fetchDecode r) =
      ({ s with inbox := rest } : State).perform (fetchDecode r')) :
    step { s with inbox := r :: rest } = step { s with inbox := r' :: rest } := by
  cases h : protocolRefusal r s with
  | some e =>
    exact (step_refused (s := { s with inbox := r :: rest }) rfl h).trans
      (step_refused (s := { s with inbox := r' :: rest }) rfl (hp.symm.trans h)).symm
  | none =>
    exact (step_perform (s := { s with inbox := r :: rest }) rfl h).trans
      (hd.trans (step_perform (s := { s with inbox := r' :: rest }) rfl (hp.symm.trans h)).symm)

theorem State.perform_withAddr16_congr {s : State} {a : Num24} {i i' : Addr → Instr}
    (h : ∀ x, exec (i x) s = exec (i' x) s) : s.perform (withAddr16 a i) = s.perform (withAddr16 a i') := by
  unfold withAddr16
  split_ifs
  · exact h _
  · rfl

/-- Settles O13: neither the protocol check nor the meaning of READ and WRITE looks at `P`. -/
theorem pcOperandHasNoEffect : Obligations.PcOperandHasNoEffect := by
  intro s rest port timing q c a p p' d hc
  refine step_congr (protocolRefusal_mkWord_pc s port timing q c a p p' d) ?_
  unfold fetchDecode
  rcases hc with rfl | rfl
  · rw [decodeWord_mkWord_read, decodeWord_mkWord_read]
    exact State.perform_withAddr16_congr fun x => (exec_read _ x p).trans (exec_read _ x p').symm
  · rw [decodeWord_mkWord_write, decodeWord_mkWord_write]
    exact State.perform_withAddr16_congr fun x => (exec_write _ x p d).trans (exec_write _ x p' d).symm

/-! ### The rows below 0xC000 -/

/-- Settles O21: below 0xC000 these families select their last read row. -/
theorem unbankedReadRows : Obligations.UnbankedReadRows := by
  intro s a ha
  have hdir : ¬ 0xC000 ≤ a.toNat := by omega
  refine ⟨fun hf => State.readBy_selected _ ?_, fun hf => State.readBy_selected _ ?_,
    fun hf => State.readBy_selected _ ?_, fun hsize => Nat.mod_eq_of_lt (by omega)⟩
  · rw [hf, selectRow_noRule_read, if_neg hdir]
  · rw [hf, selectRow_romOnly_read, if_neg hdir]
  · rw [hf, selectRow_sg1000_read, if_neg hdir]

/-- Settles O22: below 0xC000 and at no select location each family selects its last write row. -/
theorem ignoredWriteRows : Obligations.IgnoredWriteRows := by
  intro s a v ha
  have hdir : ¬ 0xC000 ≤ a.toNat := by omega
  refine ⟨fun hf => State.writeBy_selected s ?_, fun hf => State.writeBy_selected s ?_,
    fun hf => State.writeBy_selected s ?_, fun hf hram => State.writeBy_selected s ?_,
    fun hf h0 h1 h2 => State.writeBy_selected s ?_, fun hf h2 => State.writeBy_selected s ?_⟩
  · rw [hf, selectRow_noRule_write, if_neg hdir]
  · rw [hf, selectRow_romOnly_write, if_neg hdir]
  · rw [hf, selectRow_sg1000_write, if_neg hdir]
  · have hcram : ¬ (0x8000 ≤ a.toNat ∧ ramen s.ctrl = true) := fun ⟨hlo, hc⟩ =>
      Bool.false_ne_true ((hram hlo).symm.trans hc)
    rw [hf, selectRow_sega_write, if_neg (by bv_omega), if_neg (by bv_omega), if_neg (by bv_omega),
      if_neg (by bv_omega), if_neg hdir, if_neg hcram]
  · rw [hf, selectRow_codemasters_write, if_neg (addr_ne h0), if_neg (addr_ne h1), if_neg (addr_ne h2), if_neg hdir]
  · rw [hf, selectRow_korean_write, if_neg (addr_ne h2), if_neg hdir]

end Sys2Proof.Machine
end

section
/-! The Sega rows (R151 to R159): the reads of the two ROM windows, of window 2 and of the registers (O23), the register
writes (O24), and the write into mapped cartridge RAM (O25). -/

namespace Sys2Proof.Machine

/-! ### Translation and registers, with the addresses of the rows -/

theorem State.phys_eq (s : State) (a : Addr) :
    s.phys a = (if a.toNat < 0x4000 then s.x0 else if a.toNat < 0x8000 then s.x1 else s.x2).toNat %
      (s.rom.size / 16384) * 16384 + a.toNat % 16384 := by
  rw [State.phys, State.bank, State.x_win]
  rfl

theorem State.segaReg_address (s : State) {a : Addr} (ha : 0xFFFC ≤ a.toNat) :
    s.segaReg (a.toNat - Config.segaRegBase) = if a.toNat = 0xFFFC then s.ctrl else if a.toNat = 0xFFFD then s.x0
      else if a.toNat = 0xFFFE then s.x1 else s.x2 := by
  have hidx (i : Nat) : a.toNat - Config.segaRegBase = i ↔ a.toNat = 0xFFFC + i := by
    simp only [Config.segaRegBase]; omega
  simp only [State.segaReg, hidx]

/-! ### Window 2 while cartridge RAM is mapped -/

section Window2
variable {s : State} {a : Addr} (hf : s.family = .sega) (hlo : 0x8000 ≤ a.toNat) (hhi : a.toNat < 0xC000)
  (hram : s.ctrl.getLsbD 3 = true)
include hf hlo hhi hram

theorem exec_segaRWin2Cram :
    exec (.segaRWin2Cram a) s = .next (s.respond (resp .ok (s.cram.read (s.cramIndex a)) 0)) := by
  refine State.readBy_selected _ ?_
  rw [hf, selectRow_sega_read, if_neg (by omega), if_neg (by omega), if_pos hlo, ramen, if_pos hram]

theorem exec_segaWWin2Cram (v : Byte) : exec (.segaWWin2Cram a v) s = .next (s.storeCram (s.cramIndex a) v).done := by
  refine State.writeBy_selected _ ?_
  rw [hf, selectRow_sega_write, if_neg (by bv_omega), if_neg (by bv_omega), if_neg (by bv_omega), if_neg (by bv_omega),
    if_neg (by omega), if_pos ⟨hlo, hram⟩]

end Window2

/-! ### The obligations -/

/-- Settles O23: each range of addresses selects its row; `State.phys_eq`, `State.cramIndex_eq` and
`State.segaReg_address` say what the row reads. -/
theorem segaReadRows : Obligations.SegaReadRows := by
  intro s a hf
  refine ⟨fun ha => ?_, fun hlo hhi hram => ?_, fun hlo hhi hram => ?_, fun ha => ?_⟩
  · have hphys := s.phys_eq a
    rw [if_pos ha] at hphys
    rw [← hphys]
    refine State.readBy_selected _ ?_
    rw [hf, selectRow_sega_read, if_neg (by omega), if_neg (by omega), if_neg (by omega)]
  · have hphys := s.phys_eq a
    rw [if_neg (by omega), if_neg (by omega)] at hphys
    rw [← hphys]
    refine State.readBy_selected _ ?_
    rw [hf, selectRow_sega_read, if_neg (by omega), if_neg (by omega), if_pos hlo, ramen,
      if_neg (Bool.eq_false_iff.mp hram)]
  · rw [← State.cramIndex_eq]
    exact exec_segaRWin2Cram hf hlo hhi hram
  · rw [← s.segaReg_address ha]
    refine State.readBy_selected _ ?_
    rw [hf, selectRow_sega_read, if_pos ha]

/-- Settles O24: each of the four addresses selects its own row. -/
theorem segaRegisterWriteRows : Obligations.SegaRegisterWriteRows := by
  intro s v hf
  refine ⟨State.writeBy_selected (s.setCtrl v) ?_, State.writeBy_selected (s.setX0 v) ?_,
    State.writeBy_selected (s.setX1 v) ?_, State.writeBy_selected (s.setX2 v) ?_⟩
  all_goals rw [hf, selectRow_sega_write]; rfl

/-- Settles O25: the write and the read of the same address meet at the same offset of `CRAM`, which depends on the
address and `CTRL` only. -/
theorem segaCartridgeRamWriteRow : Obligations.SegaCartridgeRamWriteRow := by
  intro s a v hf hlo hhi hram
  refine ⟨s.cram.write (s.cramIndex a) v, exec_segaWWin2Cram hf hlo hhi hram v, fun n => ?_, ?_⟩
  · rw [Memory.read_write, State.cramIndex_eq]
  · have hread := exec_segaRWin2Cram (s := s.storeCram (s.cramIndex a) v) hf hlo hhi hram
    have hsame : (s.storeCram (s.cramIndex a) v).cram.read ((s.storeCram (s.cramIndex a) v).cramIndex a) = v :=
      (Memory.read_write ..).trans (if_pos rfl)
    rw [hsame] at hread
    exact hread

end Sys2Proof.Machine
end

section
/-! The Codemasters rows (R171 to R174): the banked read below 0xC000, and the writes at the three trigger addresses
(O26). -/

namespace Sys2Proof.Machine

/-- Settles O26: below 0xC000 the read row is selected and `State.phys_eq` says which byte it reads; each trigger
address selects its own write row. -/
theorem codemastersRows : Obligations.CodemastersRows := by
  intro s a v hf
  refine ⟨fun ha => ?_, State.writeBy_selected (s.setX0 v) ?_, State.writeBy_selected (s.setX1 v) ?_,
    State.writeBy_selected (s.setX2 v) ?_⟩
  · rw [← s.phys_eq a]
    refine State.readBy_selected _ ?_
    rw [hf, selectRow_codemasters_read, if_neg (by omega)]
  all_goals rw [hf, selectRow_codemasters_write]; rfl

end Sys2Proof.Machine
end

section
/-! The Korean rows (R181, R182): the banked read below 0xC000, with windows 0 and 1 hardwired, and the write at 0xA000
(O27). Only SETRULE and INIT change what a READ of the hardwired windows returns (O56). -/

namespace Sys2Proof.Machine

/-- In the Korean family the invariant puts windows 0 and 1 on banks 0 and 1 (R26); bank 0 is number 0 modulo
any `NB`. -/
theorem State.Inv.phys_korean {s : State} (h : s.Inv) (hf : s.family = .korean) (a : Addr) :
    s.phys a = if a.toNat < 0x4000 then a.toNat % 16384
      else if a.toNat < 0x8000 then 1 % (s.rom.size / 16384) * 16384 + a.toNat % 16384
      else s.x2.toNat % (s.rom.size / 16384) * 16384 + a.toNat % 16384 := by
  obtain ⟨h0, h1⟩ := h.koreanHardwired hf
  rw [State.phys_eq, h0, h1]
  split_ifs
  · simp
  · rfl
  · rfl

/-- Settles O27: below 0xC000 the read row is selected and `State.Inv.phys_korean` says which byte it reads; 0xA000
selects the register's own row. -/
theorem koreanRows : Obligations.KoreanRows := by
  intro s a v hf
  refine ⟨fun ha hi => ?_, State.writeBy_selected (s.setX2 v) ?_⟩
  · rw [← hi.phys_korean hf a]
    refine State.readBy_selected _ ?_
    rw [hf, selectRow_korean_read, if_neg (by omega)]
  · rw [hf, selectRow_korean_write]; rfl

/-- In windows 0 and 1 of the Korean family the byte that a READ returns depends on the image alone (R181). -/
theorem State.Inv.memRead_korean_congr {s t : State} (hs : s.Inv) (ht : t.Inv) (hf : s.family = .korean)
    (hfam : t.family = s.family) (hrom : t.rom = s.rom) {a : Addr} (ha : a.toNat < 0x8000) :
    t.memRead a = s.memRead a := by
  have hft : t.family = .korean := hfam.trans hf
  have hphys : t.phys a = s.phys a := by
    rw [ht.phys_korean hft, hs.phys_korean hf, hrom]
    simp only [if_pos ha]
  rw [State.memRead_banked (by omega) (.inr (.inr hft)), State.memRead_banked (by omega) (.inr (.inr hf)), hrom, hphys]

/-- Settles O56: the step keeps the invariant (O53), and SETRULE and INIT are the only writers of the family and of the
image (O55), so both states show the same byte (`State.Inv.memRead_korean_congr`). -/
theorem koreanWindowsZeroAndOneAreFixed : Obligations.KoreanWindowsZeroAndOneAreFixed := by
  intro s t r rest a p hi hin hstep hf hsetrule hinit ha
  have hti : t.Inv := everyStepKeepsTheInvariant s t hi hstep
  have hnot : cmdField r.word ∉ ([0x13, 0x10] : List Byte) := by simpa using And.intro hsetrule hinit
  obtain ⟨-, hfamily, hrom, -⟩ := everyElementHasOnlyItsWriters s t r rest hin hstep
  have hbyte : t.memRead a = s.memRead a :=
    hi.memRead_korean_congr hti hf (not_imp_comm.mp hfamily hnot) (not_imp_comm.mp hrom hnot) ha
  exact ⟨s.memRead a, (s.runToCheck a).runtoHit, (t.runToCheck a).runtoHit, exec_read s a p, hbyte ▸ exec_read t a p⟩

end Sys2Proof.Machine
end

section
/-! The lifecycle commands of R190 to R200: what INIT, RESET, LOADROM, SETRULE and GETRULE set and leave unchanged (O28,
O30 to O33), and what keeps, replaces and zeroes the cartridge RAM (O57). -/

namespace Sys2Proof

/-! ### The command words -/

theorem decodeWord_mkWord_reset (a : Num24) (p : BitVec 16) (d : Byte) (q : ByteSeq) :
    decodeWord (mkWord 0x11 a p d) q = .ok .reset := by
  simp [decodeWord]

theorem decodeWord_mkWord_loadrom (n : Num24) (p : BitVec 16) (d : Byte) (q : ByteSeq) :
    decodeWord (mkWord 0x12 n p d) q = .ok (.loadrom n q) := by
  simp [decodeWord]

theorem decodeWord_mkWord_setrule (a : Num24) (p : BitVec 16) (d : Byte) (q : ByteSeq) :
    decodeWord (mkWord 0x13 a p d) q = .ok (.setrule d) := by
  simp [Machine.decodeWord_setrule]

theorem decodeWord_mkWord_getrule (a : Num24) (p : BitVec 16) (d : Byte) (q : ByteSeq) :
    decodeWord (mkWord 0x14 a p d) q = .ok .getrule := by
  simp [decodeWord]

theorem decodeWord_loadstate {w : CmdWord} (data : ByteSeq) (h : cmdField w = 0x32) :
    decodeWord w data = .ok (.loadstate (aField w) data) := by
  unfold decodeWord
  rw [h]
  rfl

theorem decodeWord_write {w : CmdWord} (data : ByteSeq) (h : cmdField w = 0x01) :
    decodeWord w data = withAddr16 (aField w) fun x => .write x (pField w) (dField w) := by
  unfold decodeWord
  rw [h]
  rfl

/-- A 16-bit address operand that is accepted is the low half of `A` (R94 (a)). -/
theorem eq_of_withAddr16 {a : Num24} {f : Addr → Instr} {i : Instr} (h : withAddr16 a f = .ok i) :
    i = f (BitVec.ofNat 16 a.toNat) := by
  unfold withAddr16 at h
  split_ifs at h
  rw [← Except.ok.inj h, BitVec.ofNat_toNat, BitVec.setWidth_eq_extractLsb' (by decide)]

end Sys2Proof

namespace Sys2Proof.Machine

/-! ### INIT -/

/-- Settles O28: INIT looks at nothing, and the memories and images that it leaves list no byte. -/
theorem initDefinesEveryElement : Obligations.InitDefinesEveryElement :=
  ⟨fun _ _ _ q => decodeWord_init q (cmdField_mkWord ..), rfl,
    fun _ => ⟨[], [], ByteSeq.empty, ByteSeq.empty, rfl, Memory.read_nil, Memory.read_nil, rfl, rfl⟩⟩

/-! ### RESET -/

theorem powerOnX2_eq (fam : Family) : powerOnX2 fam = if fam = .codemasters then 0x00 else 0x02 := by
  cases fam <;> rfl

theorem exec_reset_noRule {s : State} (hf : s.family = .noRule) : exec .reset s = .next (s.raise .noRule 0) :=
  congrArg Host.Outcome.next (if_pos hf)

theorem exec_reset_rule {s : State} (hf : s.family ≠ .noRule) :
    exec .reset s = .next (({ s with map := [] } : State).ruleReset s.family).done :=
  congrArg Host.Outcome.next (if_neg hf)

/-- Settles O30: `exec_reset_noRule` and `exec_reset_rule`; the cleared map lists no byte, and the value of `x[2]` is
`powerOnX2_eq`. -/
theorem resetClearsMapAndRegisters : Obligations.ResetClearsMapAndRegisters := by
  refine ⟨decodeWord_mkWord_reset, rfl, fun s => ⟨exec_reset_noRule, fun hf => ⟨[], ?_, Memory.read_nil⟩⟩⟩
  rw [exec_reset_rule hf, ← powerOnX2_eq]
  rfl

/-! ### LOADROM -/

theorem sizeAcceptable_iff (n : Nat) : sizeAcceptable n = true ↔ 8192 ≤ n ∧ n ≤ 4194304 ∧ n % 8192 = 0 := by
  simp [sizeAcceptable, and_assoc]

/-- LOADROM of the payload it announces looks at its size only (R194). -/
theorem exec_loadrom {n : Num24} {data : ByteSeq} (hp : payloadOk n data = true) (s : State) :
    exec (.loadrom n data) s = .next (if sizeAcceptable n.toNat then ({ s with stage := data } : State).done
      else s.raise .invalidImage 0) :=
  if_pos hp

/-- Settles O31: the payload's length is the word's own (`payloadOk_iff`), and then its size decides. -/
theorem loadromStagesTheImage : Obligations.LoadromStagesTheImage := by
  refine ⟨decodeWord_mkWord_loadrom, rfl, fun s n q hwf => ?_⟩
  refine ⟨fun hsize hacc => ?_, fun hsize hacc => ?_, fun hsize => ?_⟩
  · rw [exec_loadrom ((payloadOk_iff n q).mpr ⟨hsize, hwf⟩), if_pos ((sizeAcceptable_iff _).mpr hacc)]
    rfl
  · rw [exec_loadrom ((payloadOk_iff n q).mpr ⟨hsize, hwf⟩), if_neg (mt (sizeAcceptable_iff _).mp hacc)]
    rfl
  · exact if_neg fun hp => hsize ((payloadOk_iff n q).mp hp).1

/-! ### SETRULE -/

theorem gran_eq (fam : Family) :
    gran fam = if fam = .sega ∨ fam = .codemasters ∨ fam = .korean then 16384 else 8192 := by
  cases fam <;> rfl

theorem State.imageFits_iff (s : State) (fam : Family) :
    s.imageFits fam = true ↔ 0 < s.stage.size ∧ s.stage.size % gran fam = 0 := by
  simp [State.imageFits]

/-- SETRULE of the tag of a family that it can install (R195). -/
theorem exec_setrule_of_tag {tag : Byte} {fam : Family} (ht : Family.ofTag tag = some fam) (hf : fam ≠ .noRule)
    (s : State) : exec (.setrule tag) s = .next (setRule fam s) := by
  change execSetrule tag s = _
  unfold execSetrule
  rw [ht]
  cases fam with
  | noRule => exact absurd rfl hf
  | _ => rfl

/-- Settles O32: the tag is that of the family (`exec_setrule_of_tag`), and `ImageFits` decides; the cartridge RAM of
the fresh rule lists no byte. -/
theorem setruleInstallsTheImage : Obligations.SetruleInstallsTheImage := by
  refine ⟨decodeWord_mkWord_setrule, rfl, fun s fam g hf hg => ?_⟩
  rw [← gran_eq] at hg
  subst hg
  rw [exec_setrule_of_tag fam.ofTag_tag hf, ← State.imageFits_iff, ← powerOnX2_eq, setRule]
  refine ⟨fun hfit => ⟨[], ?_, Memory.read_nil⟩, fun hfit => ?_⟩
  · rw [if_pos hfit]
    rfl
  · rw [if_neg hfit]
    rfl

/-! ### GETRULE -/

/-- Settles O33: GETRULE only answers. -/
theorem getruleReturnsTheFamilyTag : Obligations.GetruleReturnsTheFamilyTag :=
  ⟨decodeWord_mkWord_getrule, rfl, fun _ => rfl⟩

/-! ### The lifetime of the cartridge RAM -/

/-- A step whose word decodes to an instruction and that answers a next state has run the instruction. -/
theorem step_exec {s t : State} {r : Request} {rest : List Request} {i : Instr} (h : s.inbox = r :: rest)
    (hs : step s = .next t) (hd : decodeWord r.word r.payload = .ok i) : exec i { s with inbox := rest } = .next t := by
  obtain ⟨-, he⟩ := step_next h hs
  rwa [hd] at he

/-- The addresses of window 2 resolve to cartridge RAM while `CTRL[3] = 1` in the Sega family (R68). -/
theorem State.resolve_segaCram {s : State} {a : Addr} (hf : s.family = .sega) (hlo : 0x8000 ≤ a.toNat)
    (hhi : a.toNat < 0xC000) (hc : ramen s.ctrl = true) : s.resolve a = .cramCell (s.cramIndex a) := by
  have hreg : ¬ Config.segaRegBase ≤ a.toNat := by simp only [Config.segaRegBase]; omega
  have hwin : win a = 2 := by simp only [win, Config.bankSize]; omega
  rw [State.resolve, if_pos (delegated_iff.mpr (.inl hhi)), hf]
  simp only [if_neg hreg, if_pos (And.intro hwin hc)]

/-- A WRITE stores in the cartridge RAM only where its address resolves to it. -/
theorem State.writeEffect_cram_of_resolve {s : State} {a : Addr} (h : ∀ c, s.resolve a ≠ .cramCell c) (v : Byte) :
    (s.writeEffect a v).cram = s.cram := by
  rw [(s.writeEffect_storedAt a v).cram]
  exact if_neg fun ⟨hf, hlo, hhi, hc⟩ => h _ (State.resolve_segaCram hf hlo hhi hc)

/-- The run-to check of a WRITE changes neither `CRAM` nor the translation (R252). -/
theorem State.Effect.write_cram {s u : State} {a : Addr} {p : BitVec 16} {v : Byte} (he : s.Effect (.write a p v) u)
    (h : ∀ c, s.resolve a ≠ .cramCell c) : u.cram = s.cram := by
  cases he with
  | unchanged => rfl
  | write => exact State.writeEffect_cram_of_resolve (s := s.runToCheck a) h v

/-- A step that takes a WRITE, legal or not (R102 (b)). -/
theorem step_write_cram {s t : State} {r : Request} {rest : List Request} (h : s.inbox = r :: rest)
    (hs : step s = .next t) (hc : cmdField r.word = 0x01)
    (hres : ∀ c, s.resolve (BitVec.ofNat 16 (aField r.word).toNat) ≠ .cramCell c) : t.cram = s.cram := by
  obtain rfl | ⟨i, hd, u, q, rfl, he⟩ := step_effect h hs
  · rfl
  · rw [decodeWord_write _ hc] at hd
    obtain rfl := eq_of_withAddr16 hd
    exact he.write_cram hres

/-- A LOADSTATE that answers OK has restored the record (R230, R231). -/
theorem exec_loadstate_ok {n : Num24} {data : ByteSeq} {s t : State} {q : Response}
    (h : exec (.loadstate n data) s = .next t) (hq : t.response = some q) (hok : q.status = .ok) :
    t = (s.restore data).done := by
  change execLoadstate n data s = _ at h
  unfold execLoadstate at h
  split_ifs at h
  · exact (Host.Outcome.next.inj h).symm
  · cases h
    cases hq
    cases hok

theorem setRule_ok {s : State} {fam : Family} {q : Response} (hq : (setRule fam s).response = some q)
    (hok : q.status = .ok) : setRule fam s = (s.install fam).done := by
  unfold setRule at hq ⊢
  split_ifs at hq ⊢
  · rfl
  · cases hq
    cases hok

/-- A SETRULE that answers OK has installed a rule (R195). -/
theorem exec_setrule_ok {tag : Byte} {s t : State} {q : Response} (h : exec (.setrule tag) s = .next t)
    (hq : t.response = some q) (hok : q.status = .ok) : ∃ fam, t = (s.install fam).done := by
  cases h
  revert hq
  rcases Family.ofTag tag with _ | (_ | _)
  case none | some.noRule =>
    rintro ⟨⟩
    cases hok
  all_goals exact fun hq => ⟨_, setRule_ok hq hok⟩

theorem State.restore_cram_read {s : State} (hf : s.family = .sega) (data : ByteSeq) {n : Nat} (hn : n < 32768) :
    (s.restore data).cram.read n = data.get (65541 + n) := by
  rw [State.restore_cram, if_pos hf, Memory.read_slice, if_pos hn]
  rfl

/-- Settles O57: the commands of the first clause are no writers of `CRAM` (O55), and what a WRITE, a LOADSTATE or
SETRULE that answers OK, and INIT leave in it is `step_write_cram`, `State.restore_cram_read` and the empty memory. -/
theorem cartridgeRamLifetime : Obligations.CartridgeRamLifetime := by
  intro s t r rest q hin hs hq
  refine ⟨fun hc => ?_, step_write_cram hin hs, fun hc hok hf n hn => ?_, fun hc hok n => ?_, fun hc n => ?_⟩
  · obtain ⟨-, -, -, -, -, hcram, -⟩ := everyElementHasOnlyItsWriters s t r rest hin hs
    have hkeep : ∀ c ∈ ([0x11, 0x00, 0x20, 0x21, 0x40, 0x41, 0x42, 0x43, 0x44, 0x45, 0x46] : List Byte),
        c ∉ ([0x01, 0x54, 0x32, 0x13, 0x10] : List Byte) := by decide
    exact not_imp_comm.mp hcram (hkeep _ hc)
  · obtain rfl := exec_loadstate_ok (step_exec hin hs (decodeWord_loadstate _ hc)) hq hok
    exact State.restore_cram_read (s := { s with inbox := rest }) hf _ hn
  · obtain ⟨fam, rfl⟩ := exec_setrule_ok (step_exec hin hs (decodeWord_setrule _ hc)) hq hok
    exact Memory.read_nil n
  · cases step_exec hin hs (decodeWord_init _ hc)
    exact Memory.read_nil n

end Sys2Proof.Machine
end

section
/-! The direct and introspection commands of R210 to R216: what RETRIEVE, LOAD, ROMBANK, RAMBANK, PEEKROM, PEEKCRAM and
POKECRAM answer, and the one byte that LOAD and POKECRAM change (O34 to O39). -/

namespace Sys2Proof

/-! ### The command words -/

theorem decodeWord_mkWord_retrieve (a : Addr) (p : BitVec 16) (d : Byte) (q : ByteSeq) :
    decodeWord (mkWord 0x20 (a16 a) p d) q = .ok (.retrieve a) := by
  simp [decodeWord]

theorem decodeWord_mkWord_load (a : Addr) (p : BitVec 16) (d : Byte) (q : ByteSeq) :
    decodeWord (mkWord 0x21 (a16 a) p d) q = .ok (.load a d) := by
  simp [decodeWord]

theorem extractLow2_eq_ofNat (d : Byte) : d.extractLsb' 0 2 = BitVec.ofNat 2 d.toNat := by
  rw [BitVec.ofNat_toNat, BitVec.setWidth_eq_extractLsb' (by decide)]

/-- The window of ROMBANK is `D[1:0]`, the rest of `D` ignored (R94 (g)). -/
theorem decodeWord_mkWord_rombank (a : Num24) (p : BitVec 16) (d : Byte) (q : ByteSeq) :
    decodeWord (mkWord 0x50 a p d) q = .ok (.rombank (BitVec.ofNat 2 d.toNat)) := by
  rw [← extractLow2_eq_ofNat]
  simp [decodeWord]

theorem decodeWord_mkWord_rambank (a : Num24) (p : BitVec 16) (d : Byte) (q : ByteSeq) :
    decodeWord (mkWord 0x51 a p d) q = .ok .rambank := by
  simp [decodeWord]

theorem decodeWord_mkWord_peekrom (n : Num24) (p : BitVec 16) (d : Byte) (q : ByteSeq) :
    decodeWord (mkWord 0x52 n p d) q = .ok (.peekrom n) := by
  simp [decodeWord]

theorem decodeWord_mkWord_peekcram (n : Num24) (p : BitVec 16) (d : Byte) (q : ByteSeq) :
    decodeWord (mkWord 0x53 n p d) q = .ok (.peekcram n) := by
  simp [decodeWord]

theorem decodeWord_mkWord_pokecram (n : Num24) (p : BitVec 16) (d : Byte) (q : ByteSeq) :
    decodeWord (mkWord 0x54 n p d) q = .ok (.pokecram n d) := by
  simp [decodeWord]

end Sys2Proof

namespace Sys2Proof.Machine

/-! ### RETRIEVE and LOAD -/

/-- Settles O34: RETRIEVE only answers. -/
theorem retrieveReturnsTheMapByte : Obligations.RetrieveReturnsTheMapByte :=
  ⟨decodeWord_mkWord_retrieve, rfl, fun _ _ => rfl⟩

/-- Settles O35: the written map reads as `Memory.read_write` says. -/
theorem loadStoresOneMapByte : Obligations.LoadStoresOneMapByte :=
  ⟨decodeWord_mkWord_load, rfl, fun s a v => ⟨s.map.write a.toNat v, rfl, Memory.read_write s.map a.toNat v⟩⟩

/-! ### ROMBANK and RAMBANK -/

theorem exec_rombank_window3 (s : State) : exec (.rombank 3) s = .next (s.respond (resp .ignored 0x00 0)) := rfl

section Windows
variable {w : BitVec 2} (hw : w ≠ 3) {s : State}
include hw

theorem exec_rombank_noRule (hf : s.family = .noRule) : exec (.rombank w) s = .next (s.raise .noRule 0) := by
  change execRombank w s = _
  rw [execRombank, if_neg hw, hf]

theorem exec_rombank_linear (hf : s.family = .romOnly ∨ s.family = .sg1000) :
    exec (.rombank w) s = .next (s.respond (resp .ok 0x00 (rval (w.toNat * Config.bankSize % s.rom.size)))) := by
  change execRombank w s = _
  rw [execRombank, if_neg hw]
  rcases hf with hf | hf <;> rw [hf]

theorem exec_rombank_banked (hf : s.family = .sega ∨ s.family = .codemasters ∨ s.family = .korean) :
    exec (.rombank w) s = .next (s.respond (resp .ok 0x00 (rval (s.bank w.toNat * Config.bankSize)))) := by
  change execRombank w s = _
  rw [execRombank, if_neg hw]
  rcases hf with hf | hf | hf <;> rw [hf]

end Windows

theorem banked_of_not_linear {fam : Family} (hnone : fam ≠ .noRule) (hlinear : ¬ (fam = .romOnly ∨ fam = .sg1000)) :
    fam = .sega ∨ fam = .codemasters ∨ fam = .korean := by
  cases fam <;> simp_all

/-- Settles O36: window 3 first, then one case per kind of family: none, linear and banked. -/
theorem rombankReturnsTheWindowOffset : Obligations.RombankReturnsTheWindowOffset := by
  refine ⟨decodeWord_mkWord_rombank, rfl, fun s w => ?_⟩
  by_cases hw : w = 3
  · subst hw
    exact exec_rombank_window3 s
  have hnum : w.toNat ≠ 3 := fun h => hw (BitVec.eq_of_toNat_eq h)
  rw [if_neg hnum]
  by_cases hnone : s.family = .noRule
  · rw [if_pos hnone]
    exact exec_rombank_noRule hw hnone
  rw [if_neg hnone]
  by_cases hlinear : s.family = .romOnly ∨ s.family = .sg1000
  · rw [if_pos hlinear]
    exact exec_rombank_linear hw hlinear
  · rw [if_neg hlinear]
    exact exec_rombank_banked hw (banked_of_not_linear hnone hlinear)

theorem rval_rambank (ctrl : Byte) : rval (rambank ctrl * Config.bankSize) = if ctrl.getLsbD 2 then 16384 else 0 := by
  unfold rambank
  split <;> rfl

/-- Settles O37: RAMBANK only answers, and the offset is 24 bits wide (`rval_rambank`). -/
theorem rambankReturnsTheRamBank : Obligations.RambankReturnsTheRamBank := by
  refine ⟨decodeWord_mkWord_rambank, rfl, fun s => ?_⟩
  rw [← rval_rambank]
  rfl

/-! ### PEEKROM -/

theorem exec_peekrom (n : Num24) (s : State) :
    exec (.peekrom n) s = .next (s.respond (if n.toNat < s.rom.size then resp .ok (s.rom.get n.toNat) 0
      else resp .ignored 0xFF 0)) :=
  rfl

/-- Settles O38: the size of the image decides. -/
theorem peekromReturnsTheImageByte : Obligations.PeekromReturnsTheImageByte := by
  refine ⟨decodeWord_mkWord_peekrom, rfl, fun s n => ?_⟩
  rw [exec_peekrom]
  refine ⟨fun hin => ?_, fun hout => ?_⟩
  · rw [if_pos hin]
    rfl
  · rw [if_neg (Nat.not_lt.mpr hout)]
    rfl

/-! ### PEEKCRAM and POKECRAM -/

theorem exec_peekcram (c : Num24) (s : State) :
    exec (.peekcram c) s = .next (s.respond (if s.family = .sega ∧ c.toNat < 32768
      then resp .ok (s.cram.read c.toNat) 0 else resp .ignored 0xFF 0)) :=
  rfl

theorem exec_pokecram (c : Num24) (v : Byte) (s : State) :
    exec (.pokecram c v) s = .next (if s.family = .sega ∧ c.toNat < 32768
      then (s.storeCram c.toNat v).done else s.respond (resp .ignored 0x00 0)) :=
  rfl

/-- Settles O39: both commands look at the family and the offset only; the written byte is `Memory.read_write`. -/
theorem peekcramAndPokecram : Obligations.PeekcramAndPokecram := by
  refine ⟨fun n p d q => ⟨decodeWord_mkWord_peekcram n p d q, decodeWord_mkWord_pokecram n p d q⟩, rfl, rfl,
    fun s n v => ?_⟩
  rw [exec_peekcram, exec_pokecram]
  refine ⟨fun hin => ?_, fun hout => ?_⟩
  · rw [if_pos hin, if_pos hin]
    exact ⟨rfl, s.cram.write n.toNat v, rfl, Memory.read_write s.cram n.toNat v⟩
  · rw [if_neg hout, if_neg hout]
    exact ⟨rfl, rfl⟩

end Sys2Proof.Machine
end

section
/-! State serialization (R225 to R235): the lengths and the bytes of the record (O40, O41), what LOADSTATE does to the
elements of the state (O42, O43), and the round trip (O44), which turns on one notion: that a byte sequence holds every
serialized element of a state. -/

namespace Sys2Proof

/-! ### The command words -/

theorem decodeWord_mkWord_statesize (a : Num24) (p : BitVec 16) (d : Byte) (q : ByteSeq) :
    decodeWord (mkWord 0x30 a p d) q = .ok .statesize := by
  simp [decodeWord]

theorem decodeWord_mkWord_savestate (n : Num24) (p : BitVec 16) (d : Byte) (q : ByteSeq) :
    decodeWord (mkWord 0x31 n p d) q = .ok (.savestate n) := by
  simp [decodeWord]

theorem decodeWord_mkWord_loadstate (n : Num24) (p : BitVec 16) (d : Byte) (q : ByteSeq) :
    decodeWord (mkWord 0x32 n p d) q = .ok (.loadstate n q) := by
  simp [decodeWord]

end Sys2Proof

namespace Sys2Proof.Machine

/-! ### STATESIZE -/

theorem stateSize_eq (fam : Family) : stateSize fam =
    if fam = .sega then 98309 else if fam = .codemasters then 65540 else if fam = .korean then 65538 else 65537 := by
  cases fam <;> rfl

theorem rval_stateSize (fam : Family) : rval (stateSize fam) =
    if fam = .sega then 98309 else if fam = .codemasters then 65540 else if fam = .korean then 65538 else 65537 := by
  cases fam <;> rfl

/-- A record's length fits the 24-bit fields `A` and `RVAL`. -/
theorem rval_stateSize_toNat (fam : Family) : (rval (stateSize fam)).toNat = stateSize fam := by
  obtain ⟨-, hmax⟩ := stateSize_bounds fam
  exact rval_toNat (by omega)

/-- Settles O40: STATESIZE only answers, and no length is cut off in 24 bits (`rval_stateSize`). -/
theorem statesizeReturnsTheRecordLength : Obligations.StatesizeReturnsTheRecordLength := by
  refine ⟨decodeWord_mkWord_statesize, rfl, fun s => ⟨?_, stateSize_eq s.family⟩⟩
  rw [← rval_stateSize]
  rfl

/-! ### The elements that a record holds -/

/-- The bytes of `q` are the serialized elements of `s`, each at its place in the record of the family (R225). -/
structure State.RecordedAs (s : State) (q : ByteSeq) : Prop where
  map : ∀ a < 65536, q.get a = s.map.read a
  tag : q.get 65536 = s.family.tag
  koreanReg : s.family = .korean → q.get 65537 = s.x2
  bankRegs : s.family = .codemasters ∨ s.family = .sega →
    q.get 65537 = s.x0 ∧ q.get 65538 = s.x1 ∧ q.get 65539 = s.x2
  ctrl : s.family = .sega → q.get 65540 = s.ctrl
  cram : s.family = .sega → ∀ c < 32768, q.get (65541 + c) = s.cram.read c

theorem State.record_recordedAs (s : State) : s.RecordedAs s.record where
  map := s.record_map
  tag := s.record_regs 0 (by decide)
  koreanReg hf := by
    rw [s.record_regs 1 (by decide), State.recordRegs, hf]
    rfl
  bankRegs hf := by
    rw [s.record_regs 1 (by decide), s.record_regs 2 (by decide), s.record_regs 3 (by decide), State.recordRegs]
    rcases hf with hf | hf <;> rw [hf] <;> exact ⟨rfl, rfl, rfl⟩
  ctrl hf := by
    rw [s.record_regs 4 (by decide), State.recordRegs, hf]
    rfl
  cram hf c hc := s.record_cram c hc hf

theorem State.restore_map_read (s : State) (q : ByteSeq) {a : Nat} (ha : a < 65536) :
    (s.restore q).map.read a = q.get a := by
  rw [State.restore_map, Memory.read_slice, if_pos ha, Nat.zero_add]
  rfl

theorem State.restore_recordedAs {s : State} {q : ByteSeq} (htag : q.get 65536 = s.family.tag) :
    (s.restore q).RecordedAs q := by
  obtain ⟨h0, h1, h2, hctrl⟩ := s.restore_regs q
  exact
  { map := fun a ha => (s.restore_map_read q ha).symm
    tag := by rw [htag, State.restore_family]
    koreanReg := fun hf => by
      rw [State.restore_family] at hf
      simp [h2, hf]
    bankRegs := fun hf => by
      rw [State.restore_family] at hf
      simp [h0, h1, h2, hf.symm]
    ctrl := fun hf => by
      rw [State.restore_family] at hf
      rw [hctrl, if_pos hf]
    cram := fun hf c hc => by
      rw [State.restore_family] at hf
      exact (State.restore_cram_read hf q hc).symm }

section RecordedAlike
variable {s t : State} {q : ByteSeq} (hs : s.RecordedAs q) (ht : t.RecordedAs q)
include hs ht

theorem State.RecordedAs.family_eq : t.family = s.family := Family.tag_injective (ht.tag.symm.trans hs.tag)

variable (his : s.Inv) (hit : t.Inv)
include his hit

theorem State.RecordedAs.map_eq : t.map = s.map := by
  refine Memory.wf_ext hit.mapWf his.mapWf fun a => ?_
  by_cases ha : a < 65536
  · rw [← ht.map a ha, hs.map a ha]
  · rw [Memory.read_above hit.mapWf (Nat.not_lt.mp ha), Memory.read_above his.mapWf (Nat.not_lt.mp ha)]

/-- Outside the Sega family the record holds no cartridge RAM, and R33 (g) has it all zero. -/
theorem State.RecordedAs.cram_eq : t.cram = s.cram := by
  have hfam := hs.family_eq ht
  refine Memory.wf_ext hit.cramWf his.cramWf fun c => ?_
  by_cases hf : s.family = .sega
  · by_cases hc : c < 32768
    · rw [← ht.cram (hfam.trans hf) c hc, hs.cram hf c hc]
    · rw [Memory.read_above hit.cramWf (Nat.not_lt.mp hc), Memory.read_above his.cramWf (Nat.not_lt.mp hc)]
  · rw [hit.cramZero (hfam ▸ hf), his.cramZero hf]

/-- The registers that the record of the family does not hold have one value by R33 (d), (e) and (f). -/
theorem State.RecordedAs.regs_eq : t.x0 = s.x0 ∧ t.x1 = s.x1 ∧ t.x2 = s.x2 ∧ t.ctrl = s.ctrl := by
  have hfam := hs.family_eq ht
  cases hf : s.family with
  | noRule | romOnly | sg1000 =>
    obtain ⟨h0, h1, h2, hctrl⟩ := his.unusedPowerOn (by simp [hf])
    obtain ⟨h0', h1', h2', hctrl'⟩ := hit.unusedPowerOn (by simp [hfam, hf])
    exact ⟨h0'.trans h0.symm, h1'.trans h1.symm, h2'.trans h2.symm, hctrl'.trans hctrl.symm⟩
  | korean =>
    obtain ⟨h0, h1⟩ := his.koreanHardwired hf
    obtain ⟨h0', h1'⟩ := hit.koreanHardwired (hfam.trans hf)
    exact ⟨h0'.trans h0.symm, h1'.trans h1.symm, (ht.koreanReg (hfam.trans hf)).symm.trans (hs.koreanReg hf),
      (hit.noCtrl (.inr (hfam.trans hf))).trans (his.noCtrl (.inr hf)).symm⟩
  | codemasters =>
    obtain ⟨h0, h1, h2⟩ := hs.bankRegs (.inl hf)
    obtain ⟨h0', h1', h2'⟩ := ht.bankRegs (.inl (hfam.trans hf))
    exact ⟨h0'.symm.trans h0, h1'.symm.trans h1, h2'.symm.trans h2,
      (hit.noCtrl (.inl (hfam.trans hf))).trans (his.noCtrl (.inl hf)).symm⟩
  | sega =>
    obtain ⟨h0, h1, h2⟩ := hs.bankRegs (.inr hf)
    obtain ⟨h0', h1', h2'⟩ := ht.bankRegs (.inr (hfam.trans hf))
    exact ⟨h0'.symm.trans h0, h1'.symm.trans h1, h2'.symm.trans h2,
      (ht.ctrl (hfam.trans hf)).symm.trans (hs.ctrl hf)⟩

end RecordedAlike

/-! ### SAVESTATE -/

theorem exec_savestate_small {n : Num24} {s : State} (h : n.toNat < stateSize s.family) :
    exec (.savestate n) s = .next (s.raise .bufferTooSmall (rval (stateSize s.family))) :=
  congrArg Host.Outcome.next (if_pos h)

theorem exec_savestate_fits {n : Num24} {s : State} (h : stateSize s.family ≤ n.toNat) :
    exec (.savestate n) s = .next (s.respond ⟨.ok, 0x00, rval (stateSize s.family), s.record⟩) :=
  congrArg Host.Outcome.next (if_neg (Nat.not_lt.mpr h))

/-- Settles O41: the buffer's size decides, and `State.record_recordedAs` reads the stream. -/
theorem savestateStreamsTheRecord : Obligations.SavestateStreamsTheRecord := by
  refine ⟨decodeWord_mkWord_savestate, rfl, fun s n => ⟨exec_savestate_small, fun hfits => ?_⟩⟩
  have hr := s.record_recordedAs
  exact ⟨s.record, exec_savestate_fits hfits, rfl, hr.map, hr.tag, hr.koreanReg, hr.bankRegs,
    fun hf => ⟨hr.ctrl hf, hr.cram hf⟩⟩

/-! ### LOADSTATE -/

theorem exec_loadstate_acceptable {n : Num24} {q : ByteSeq} {s : State} (hp : payloadOk n q = true)
    (ha : s.acceptable q = true) : exec (.loadstate n q) s = .next (s.restore q).done :=
  (if_pos hp).trans (congrArg Host.Outcome.next (if_pos ha))

theorem exec_loadstate_mismatch {n : Num24} {q : ByteSeq} {s : State} (hp : payloadOk n q = true)
    (ha : ¬ s.acceptable q = true) : exec (.loadstate n q) s = .next ((s.corrupt q).raise .stateMismatch 0) :=
  (if_pos hp).trans (congrArg Host.Outcome.next (if_neg ha))

/-- All that a LOADSTATE can leave different behind its response: the elements of some family's record, and the model's
own counter. -/
theorem State.RecordOnly.eq_update {s t : State} (h : s.RecordOnly t) (hi : t.initialised = s.initialised)
    (hin : t.inbox = s.inbox) (q : Response) : t.respond q = { s with
      map := t.map, cram := t.cram, x0 := t.x0, x1 := t.x1, x2 := t.x2, ctrl := t.ctrl, draws := t.draws
      response := some q } := by
  obtain ⟨hbp, hvalid, haddr, hqual, hhit⟩ := h.debugKept
  rw [← h.family, ← h.rom, ← h.stage, ← hbp, ← hvalid, ← haddr, ← hqual, ← hhit, ← hi, ← hin]
  rfl

theorem State.restore_respond_eq (s : State) (q : ByteSeq) (r : Response) : (s.restore q).respond r = { s with
    map := (s.restore q).map, cram := (s.restore q).cram, x0 := (s.restore q).x0, x1 := (s.restore q).x1
    x2 := (s.restore q).x2, ctrl := (s.restore q).ctrl, response := some r } := by
  rw [(s.restore_recordOnly q).eq_update (s.restore_initialised q) (s.restore_inbox q), s.restore_draws]

theorem State.corrupt_respond_eq (s : State) (q : ByteSeq) (r : Response) : (s.corrupt q).respond r = { s with
    map := (s.corrupt q).map, cram := (s.corrupt q).cram, x0 := (s.corrupt q).x0, x1 := (s.corrupt q).x1
    x2 := (s.corrupt q).x2, ctrl := (s.corrupt q).ctrl, draws := (s.corrupt q).draws, response := some r } :=
  (s.corrupt_recordOnly q).eq_update (s.corrupt_initialised q) (s.corrupt_inbox q) r

/-- Settles O42: the record is acceptable (`State.acceptable_iff`), and the laws of `State.restore` say what each
element then holds. -/
theorem loadstateRestoresTheRecord : Obligations.LoadstateRestoresTheRecord := by
  refine ⟨decodeWord_mkWord_loadstate, rfl, fun s n q hwf hsize hlen htag => ?_⟩
  have hacc : s.acceptable q = true := (s.acceptable_iff q).mpr ⟨hsize.trans hlen, htag⟩
  obtain ⟨h0, h1, h2, hctrl⟩ := s.restore_regs q
  refine ⟨_, _, _, _, _, _,
    (exec_loadstate_acceptable ((payloadOk_iff n q).mpr ⟨hsize, hwf⟩) hacc).trans
      (congrArg Host.Outcome.next (s.restore_respond_eq q _)),
    fun a ha => s.restore_map_read q ha, fun hf i hi => State.restore_cram_read hf q hi,
    (s.restore_recordOnly q).cram, hctrl, h0, h1, h2⟩

theorem State.corrupt_map_wf (s : State) (q : ByteSeq) : (s.corrupt q).map.wf 65536 = true := by
  rw [State.corrupt_map]
  exact Memory.wf_tabulate _ _

theorem State.corrupt_cram_wf {s : State} (h : s.cram.wf 32768 = true) (q : ByteSeq) :
    (s.corrupt q).cram.wf 32768 = true := by
  rw [State.corrupt_cram]
  split_ifs
  · exact Memory.wf_tabulate _ _
  · exact h

/-- Settles O43: a failed restore changes only elements of the record (`State.corrupt_recordOnly`), and its free values
are tabulated, so in canonical form. -/
theorem failedLoadstateTouchesOnlyTheRecord : Obligations.FailedLoadstateTouchesOnlyTheRecord := by
  intro s n q hwf
  refine ⟨fun hsize hbad => ?_, fun hsize => if_neg fun hp => hsize ((payloadOk_iff n q).mp hp).1⟩
  have hacc : ¬ s.acceptable q = true := fun ha => by
    obtain ⟨hlen, htag⟩ := (s.acceptable_iff q).mp ha
    exact hbad ⟨hsize.symm.trans hlen, htag⟩
  have hr := s.corrupt_recordOnly q
  exact ⟨_, _, _, _, _, _, _,
    (exec_loadstate_mismatch ((payloadOk_iff n q).mpr ⟨hsize, hwf⟩) hacc).trans
      (congrArg Host.Outcome.next (s.corrupt_respond_eq q _)),
    s.corrupt_map_wf q, fun hc => State.corrupt_cram_wf hc q, fun hf => ⟨hr.cram hf, hr.ctrl hf⟩, hr.x01, hr.x2⟩

/-! ### The round trip -/

theorem State.Inv.record_payloadOk {s : State} (h : s.Inv) : payloadOk (rval (stateSize s.family)) s.record = true :=
  (payloadOk_iff _ _).mpr ⟨(rval_stateSize_toNat s.family).symm, State.record_wf h.mapWf h.cramWf⟩

theorem State.acceptable_record {s t : State} (hf : t.family = s.family) : t.acceptable s.record = true :=
  (t.acceptable_iff _).mpr ⟨congrArg stateSize hf.symm, s.record_recordedAs.tag.trans (congrArg Family.tag hf.symm)⟩

/-- The record of `s` holds the serialized elements both of `s` and of the state that its restore gives, and the
invariant fixes the others. The staged image, which no READ shows, is that of `t`. -/
theorem State.Inv.restore_record_sameMachine {s t : State} (hs : s.Inv) (ht : t.Inv) (hf : t.family = s.family)
    (hrom : t.rom = s.rom) : ({ s with stage := t.stage } : State).SameMachine (t.restore s.record) := by
  have hrec := s.record_recordedAs
  have hres : (t.restore s.record).RecordedAs s.record :=
    State.restore_recordedAs (hrec.tag.trans (congrArg Family.tag hf.symm))
  have hinv : (t.restore s.record).Inv := ht.restore hs.record_payloadOk
  obtain ⟨h0, h1, h2, hctrl⟩ := hrec.regs_eq hres hs hinv
  exact
  { map := hrec.map_eq hres hs hinv
    family := hrec.family_eq hres
    rom := (t.restore_rom _).trans hrom
    stage := t.restore_stage _
    x0 := h0
    x1 := h1
    x2 := h2
    ctrl := hctrl
    cram := hrec.cram_eq hres hs hinv }

theorem State.memRead_stage (s : State) (q : ByteSeq) (a : Addr) :
    ({ s with stage := q } : State).memRead a = s.memRead a := rfl

theorem State.memRead_respond (s : State) (r : Response) (a : Addr) : (s.respond r).memRead a = s.memRead a := rfl

/-- Settles O44: the saved record is acceptable in `t`, and its restore is the same machine as `s` but for the staged
image. -/
theorem saveThenLoadRoundTrip : Obligations.SaveThenLoadRoundTrip := by
  intro s t n hs ht hf hrom hfits
  have same := hs.restore_record_sameMachine ht hf hrom
  refine ⟨_, s.record, (t.restore s.record).done, exec_savestate_fits hfits, rfl,
    exec_loadstate_acceptable hs.record_payloadOk (State.acceptable_record hf), rfl,
    same.map, same.x0, same.x1, same.x2, same.ctrl, same.cram, fun a => ?_⟩
  calc (t.restore s.record).done.memRead a
    _ = (t.restore s.record).memRead a := State.memRead_respond _ _ a
    _ = ({ s with stage := t.stage } : State).memRead a := same.memRead a
    _ = s.memRead a := s.memRead_stage t.stage a

end Sys2Proof.Machine
end

section
/-! The debug commands of R245 to R256: what each of them answers and changes (O45 to O49), that READ and WRITE set
`RUNTO_HIT` exactly on a match (O50), and that no debug command changes the machine (O51). -/

namespace Sys2Proof

/-! ### The command words -/

theorem extractLow_eq_ofNat {n k : Nat} (h : k ≤ n) (x : BitVec n) : x.extractLsb' 0 k = BitVec.ofNat k x.toNat := by
  rw [BitVec.ofNat_toNat, BitVec.setWidth_eq_extractLsb' h]

/-- A qualifier is `P[7:0]`, present where `P[8] = 1` (R108). -/
theorem qualOf_eq (p : BitVec 16) : qualOf p = if p.getLsbD 8 then some (BitVec.ofNat 8 p.toNat) else none := by
  rw [qualOf, extractLow_eq_ofNat (by decide)]

theorem decodeWord_mkWord_bpadd (a : Num24) (p : BitVec 16) (d : Byte) (q : ByteSeq) :
    decodeWord (mkWord 0x40 a p d) q =
      .ok (.bpadd a (if p.getLsbD 8 then some (BitVec.ofNat 8 p.toNat) else none)) := by
  rw [← qualOf_eq]
  simp [decodeWord]

theorem decodeWord_mkWord_bpremove (a : Num24) (p : BitVec 16) (d : Byte) (q : ByteSeq) :
    decodeWord (mkWord 0x41 a p d) q =
      .ok (.bpremove a (if p.getLsbD 8 then some (BitVec.ofNat 8 p.toNat) else none)) := by
  rw [← qualOf_eq]
  simp [decodeWord]

theorem decodeWord_mkWord_bpcount (a : Num24) (p : BitVec 16) (d : Byte) (q : ByteSeq) :
    decodeWord (mkWord 0x42 a p d) q = .ok .bpcount := by
  simp [decodeWord]

theorem decodeWord_mkWord_bplist (a : Num24) (p : BitVec 16) (d : Byte) (q : ByteSeq) :
    decodeWord (mkWord 0x43 a p d) q = .ok (.bplist a) := by
  simp [decodeWord]

theorem decodeWord_mkWord_runtoset (a : Num24) (p : BitVec 16) (d : Byte) (q : ByteSeq) :
    decodeWord (mkWord 0x44 a p d) q =
      .ok (.runtoset a (if p.getLsbD 8 then some (BitVec.ofNat 8 p.toNat) else none)) := by
  rw [← qualOf_eq]
  simp [decodeWord]

theorem decodeWord_mkWord_runtoclear (a : Num24) (p : BitVec 16) (d : Byte) (q : ByteSeq) :
    decodeWord (mkWord 0x45 a p d) q = .ok .runtoclear := by
  simp [decodeWord]

theorem decodeWord_mkWord_getrunto (a : Num24) (p : BitVec 16) (d : Byte) (q : ByteSeq) :
    decodeWord (mkWord 0x46 a p d) q = .ok .getrunto := by
  simp [decodeWord]

end Sys2Proof

namespace Sys2Proof.Machine

/-! ### Operands and results -/

theorem outOfRange_iff (a : Num24) : outOfRange a = true ↔ 0xFFFF < a.toNat := by
  simp [outOfRange]

/-- The address of an entry is the low half of `A` (R245). -/
theorem entryOf_eq (a : Num24) (q : Option Byte) : entryOf a q = ⟨BitVec.ofNat 16 a.toNat, q⟩ :=
  congrArg (Breakpoint.mk · q) (extractLow_eq_ofNat (by decide) a)

theorem qualByte_eq_getD (q : Option Byte) : qualByte q = q.getD 0x00 := by
  cases q <;> rfl

/-- A result field with an address in its low half and flags above it (R248, R251). -/
theorem flags_append_addr (flags : BitVec 8) (a : Addr) :
    (flags ++ a : Num24) = BitVec.ofNat 24 (flags.toNat * 65536 + a.toNat) := by
  apply BitVec.eq_of_toNat_eq
  rw [BitVec.toNat_append, ← Nat.shiftLeft_add_eq_or_of_lt a.isLt, BitVec.toNat_ofNat, Nat.mod_eq_of_lt (by omega)]
  exact congrArg (· + a.toNat) (Nat.shiftLeft_eq ..)

/-! ### The breakpoint table -/

theorem exec_bpadd (a : Num24) (q : Option Byte) (s : State) :
    exec (.bpadd a q) s = .next (if 0xFFFF < a.toNat then s.ignore
      else if ⟨BitVec.ofNat 16 a.toNat, q⟩ ∈ s.bp then s.done
      else if s.bp.length = Config.bpMax then s.ignore
      else ({ s with bp := s.bp ++ [⟨BitVec.ofNat 16 a.toNat, q⟩] } : State).done) := by
  rw [← entryOf_eq]
  exact congrArg Host.Outcome.next (if_congr (outOfRange_iff a) rfl rfl)

/-- Settles O45: the checks of BPADD are range, duplicate and capacity, in this order (`exec_bpadd`). -/
theorem bpaddAppendsOneEntry : Obligations.BpaddAppendsOneEntry := by
  refine ⟨decodeWord_mkWord_bpadd, rfl, fun s a q => ?_⟩
  rw [exec_bpadd]
  refine ⟨fun hout => ?_, fun ha hold => ?_, fun ha hnew hfull => ?_, fun ha hnew hroom => ?_⟩
  · rw [if_pos hout]; rfl
  · rw [if_neg (Nat.not_lt.mpr ha), if_pos hold]; rfl
  · rw [if_neg (Nat.not_lt.mpr ha), if_neg hnew, if_pos hfull]; rfl
  · rw [if_neg (Nat.not_lt.mpr ha), if_neg hnew, if_neg hroom]; rfl

theorem exec_bpremove (a : Num24) (q : Option Byte) (s : State) :
    exec (.bpremove a q) s = .next (if 0xFFFF < a.toNat then s.ignore
      else if ⟨BitVec.ofNat 16 a.toNat, q⟩ ∈ s.bp then
        ({ s with bp := s.bp.erase ⟨BitVec.ofNat 16 a.toNat, q⟩ } : State).done
      else s.ignore) := by
  rw [← entryOf_eq]
  exact congrArg Host.Outcome.next (if_congr (outOfRange_iff a) rfl rfl)

theorem erase_of_nodup_split {l r : List Breakpoint} {b : Breakpoint} (h : (l ++ b :: r).Nodup) :
    (l ++ b :: r).erase b = l ++ r := by
  have hl : b ∉ l := fun hb => List.disjoint_of_nodup_append h hb List.mem_cons_self
  rw [List.erase_append_right _ hl, List.erase_cons_head]

/-- Settles O46: the entry that BPREMOVE erases is the only one of its kind (`erase_of_nodup_split`). -/
theorem bpremoveRemovesOneEntry : Obligations.BpremoveRemovesOneEntry := by
  refine ⟨decodeWord_mkWord_bpremove, rfl, fun s a q => ?_⟩
  rw [exec_bpremove]
  refine ⟨fun hout => ?_, fun ha hnone => ?_, fun l r ha hnodup hbp => ?_⟩
  · rw [if_pos hout]; rfl
  · rw [if_neg (Nat.not_lt.mpr ha), if_neg hnone]; rfl
  · rw [hbp] at hnodup
    rw [if_neg (Nat.not_lt.mpr ha), hbp, if_pos (by simp), erase_of_nodup_split hnodup]; rfl

theorem exec_bplist_some {i : Num24} {s : State} {b : Breakpoint} (h : s.bp[i.toNat]? = some b) :
    exec (.bplist i) s = .next (s.respond (resp .ok (b.qual.getD 0x00)
      (BitVec.ofNat 24 ((if b.qual.isSome then 65536 else 0) + b.addr.toNat)))) := by
  change execBplist i s = _
  have hflag : (0#7 ++ BitVec.ofBool b.qual.isSome).toNat * 65536 = if b.qual.isSome then 65536 else 0 := by
    cases b.qual.isSome <;> rfl
  rw [execBplist, h]
  dsimp only
  rw [qualByte_eq_getD, flags_append_addr, hflag]

theorem exec_bplist_none {i : Num24} {s : State} (h : s.bp[i.toNat]? = none) :
    exec (.bplist i) s = .next s.ignore := by
  change execBplist i s = _
  rw [execBplist, h]

/-- Settles O47: both commands only answer. -/
theorem bpcountAndBplistReportTheList : Obligations.BpcountAndBplistReportTheList := by
  refine ⟨fun a p d q => ⟨decodeWord_mkWord_bpcount a p d q, decodeWord_mkWord_bplist a p d q⟩, rfl, rfl,
    fun s i => ?_⟩
  exact ⟨⟨countRval s.bp.length, rfl, countRval_toNat⟩, fun hout => exec_bplist_none (List.getElem?_eq_none hout),
    fun hin => exec_bplist_some (List.getElem?_eq_getElem hin)⟩

/-! ### The run-to target -/

theorem exec_runtoset (a : Num24) (q : Option Byte) (s : State) :
    exec (.runtoset a q) s = .next (if 0xFFFF < a.toNat then s.ignore
      else (s.armRunTo (BitVec.ofNat 16 a.toNat) q).done) := by
  rw [← extractLow_eq_ofNat (by decide)]
  exact congrArg Host.Outcome.next (if_congr (outOfRange_iff a) rfl rfl)

/-- Settles O48: RUNTOSET looks at its address only (`exec_runtoset`), RUNTOCLEAR at nothing. -/
theorem runtosetAndRuntoclear : Obligations.RuntosetAndRuntoclear := by
  refine ⟨fun a p d q => ⟨decodeWord_mkWord_runtoset a p d q, decodeWord_mkWord_runtoclear a p d q⟩, rfl, rfl,
    fun s a q => ?_⟩
  rw [exec_runtoset]
  refine ⟨fun hout => ?_, fun ha => ?_, rfl⟩
  · rw [if_pos hout]; rfl
  · rw [if_neg (Nat.not_lt.mpr ha)]; rfl

theorem State.observeRunTo_eq (s : State) : s.observeRunTo =
    { s with runtoValid := (if s.runtoHit then false else s.runtoValid), runtoHit := false } := by
  unfold State.observeRunTo
  split_ifs with h
  · rfl
  · rw [← Bool.eq_false_of_not_eq_true h]

/-- The flags of GETRUNTO, in bits 18, 17 and 16 of `RVAL` (R251). -/
theorem runToFlags_toNat (hit valid qualified : Bool) :
    (0#5 ++ BitVec.ofBool hit ++ BitVec.ofBool valid ++ BitVec.ofBool qualified).toNat * 65536 =
      (if hit then 262144 else 0) + (if valid then 131072 else 0) + (if qualified then 65536 else 0) := by
  decide +revert

/-- Settles O49: the report is of the state before, and `State.observeRunTo_eq` says what it clears. -/
theorem getruntoReportsAndClearsTheHit : Obligations.GetruntoReportsAndClearsTheHit := by
  refine ⟨decodeWord_mkWord_getrunto, rfl, fun s => ?_⟩
  change execGetrunto s = _
  rw [execGetrunto, s.observeRunTo_eq, qualByte_eq_getD, flags_append_addr, runToFlags_toNat]
  rfl

/-! ### The hook in READ and WRITE -/

/-- A target with a qualifier matches where the address shows a cell of that bank of the image (R253). -/
theorem State.qualMatches_iff (s : State) (q : Option Byte) (a : Addr) : s.qualMatches q a = true ↔
    q = none ∨ ∃ b c, q = some b ∧ s.resolve a = .romCell c ∧ c / 16384 = b.toNat := by
  cases q with
  | none => simp [State.qualMatches]
  | some b => cases hres : s.resolve a <;> simp [State.qualMatches, hres]

theorem State.runToMatches_iff (s : State) (a : Addr) : s.runToMatches a = true ↔
    s.runtoValid = true ∧ a = s.runtoAddr ∧ (s.runtoQual = none ∨
      ∃ b c, s.runtoQual = some b ∧ s.resolve a = .romCell c ∧ c / 16384 = b.toNat) := by
  simp only [State.runToMatches, Bool.and_eq_true, decide_eq_true_eq, State.qualMatches_iff, and_assoc]

/-- A WRITE changes no debug register but through the hook. -/
theorem State.writeEffect_sameDebug (s : State) (a : Addr) (v : Byte) : s.SameDebug (s.writeEffect a v) := by
  rw [State.writeEffect_frame]
  exact ⟨rfl, rfl, rfl, rfl, rfl⟩

/-! ### The writers of the debug registers and of the machine -/

/-- The writers of the debug registers (R20). -/
def debugWriters : List Byte := [0x00, 0x01, 0x10, 0x40, 0x41, 0x44, 0x45, 0x46]

/-- The writers of the elements of R255 (R20). -/
def machineWriters : List Byte := [0x01, 0x10, 0x11, 0x12, 0x13, 0x21, 0x32, 0x54]

section Writers
variable {c : Byte} {s t : State} (h : s.WrittenBy c t)
include h

theorem State.WrittenBy.sameDebug (hc : c ∉ debugWriters) : t.SameDebug s := by
  have hnot {l : List Byte} (hl : l ⊆ debugWriters) : c ∉ l := fun hm => hc (hl hm)
  have htarget : t.runtoAddr = s.runtoAddr ∧ t.runtoQual = s.runtoQual := by
    simpa using mt h.runtoTarget (hnot (by decide))
  have hhit : t.runtoHit = s.runtoHit := by
    cases ht : t.runtoHit <;> cases hs : s.runtoHit
    · rfl
    · exact absurd (h.hitCleared ht hs) (hnot (by decide))
    · exact absurd (h.hitSet ht hs) (hnot (by decide))
    · rfl
  exact ⟨(not_imp_comm.mp h.bp (hnot (by decide))).symm, (not_imp_comm.mp h.runtoValid (hnot (by decide))).symm,
    htarget.1.symm, htarget.2.symm, hhit.symm⟩

theorem State.WrittenBy.sameMachine (hc : c ∉ machineWriters) : s.SameMachine t := by
  have hnot {l : List Byte} (hl : l ⊆ machineWriters) : c ∉ l := fun hm => hc (hl hm)
  obtain ⟨hx0, hx1, hx2, hctrl⟩ : t.x0 = s.x0 ∧ t.x1 = s.x1 ∧ t.x2 = s.x2 ∧ t.ctrl = s.ctrl := by
    simpa using mt h.regs (hnot (by decide))
  exact
  { map := not_imp_comm.mp h.map (hnot (by decide))
    family := not_imp_comm.mp h.family (hnot (by decide))
    rom := not_imp_comm.mp h.rom (hnot (by decide))
    stage := not_imp_comm.mp h.stage (hnot (by decide))
    x0 := hx0
    x1 := hx1
    x2 := hx2
    ctrl := hctrl
    cram := not_imp_comm.mp h.cram (hnot (by decide)) }

end Writers

theorem payloadOk_of_loadstate_next {n : Num24} {q : ByteSeq} {s t : State}
    (h : exec (.loadstate n q) s = .next t) : payloadOk n q = true := by
  by_contra hp
  cases (show exec (.loadstate n q) s = .refused .streamLength from if_neg hp).symm.trans h

/-- Settles O50: the hook sets the hit where the target matches (`State.runToMatches_iff`), and the access after it
leaves the debug registers alone; the other six commands are no writers of them. -/
theorem runToHitExactlyOnAMatch : Obligations.RunToHitExactlyOnAMatch := by
  intro s a p v n q
  constructor
  · have hwrite := (s.runToCheck a).writeEffect_sameDebug a v
    refine ⟨_, _, exec_read s a p, exec_write s a p v, hwrite.runtoHit, rfl, rfl, rfl, hwrite.runtoValid,
      hwrite.runtoAddr, hwrite.runtoQual, ?_⟩
    change (s.runtoHit || s.runToMatches a) = true ↔ _
    rw [Bool.or_eq_true, State.runToMatches_iff]
  · intro i hi t h
    have hnot : ∀ c ∈ ([0x20, 0x21, 0x52, 0x53, 0x54, 0x32] : List Byte), c ∉ debugWriters := by decide
    have hcode : i.code ∉ debugWriters := hnot _ (List.mem_map_of_mem (f := Instr.code) hi)
    have hproper : i.isProperCommand = true := by
      simp only [List.mem_cons, List.not_mem_nil, or_false] at hi
      obtain rfl | rfl | rfl | rfl | rfl | rfl := hi
      case inr.inr.inr.inr.inr => exact payloadOk_of_loadstate_next h
      all_goals rfl
    obtain ⟨u, w, rfl, he⟩ := exec_leaves hproper h
    exact { he.writtenBy.sameDebug hcode with }

/-- Settles O51: the debug commands are no writers of the machine (O55). -/
theorem debugCommandsKeepTheMachine : Obligations.DebugCommandsKeepTheMachine := by
  intro s t r rest hin hs hlo hhi
  obtain ⟨hmap, hfamily, hrom, hstage, hregs, hcram, hbp, hvalid, htarget, hset, hcleared⟩ :=
    everyElementHasOnlyItsWriters s t r rest hin hs
  have hw : s.WrittenBy (cmdField r.word) t :=
    ⟨hmap, hfamily, hrom, hstage, hregs, hcram, hbp, hvalid, htarget, hset, hcleared⟩
  have hrange : ∀ c ∈ machineWriters, ¬ (0x40 ≤ c.toNat ∧ c.toNat ≤ 0x46) := by decide
  exact hw.sameMachine fun hm => hrange _ hm ⟨hlo, hhi⟩

end Sys2Proof.Machine
end

section
/-! Noninterference of the debug registers (R255): no command but the debug commands looks at them (O52). The proof is a
commuting diagram: clearing the debug registers before such a command, or after it, makes the same step. -/

namespace Sys2Proof.Machine

/-! ### Clearing the debug registers -/

/-- The state with the debug registers at their values after INIT (R35). -/
def State.clearDebug (s : State) : State :=
  { s with bp := [], runtoValid := false, runtoAddr := 0x0000, runtoQual := none, runtoHit := false }

/-- All that a command other than a debug command can depend on: neither the debug registers nor the last response. -/
def State.machinePart (s : State) : State := { s.clearDebug with response := none }

/-- An outcome with the debug registers of its next state cleared. -/
def clearDebugOf : Result → Result
  | .next t => .next t.clearDebug
  | .fault e => .fault e
  | .refused e => .refused e

theorem clearDebugOf_eq_next {o : Result} {t : State} (h : clearDebugOf o = .next t) :
    ∃ u, o = .next u ∧ u.clearDebug = t := by
  cases o with
  | next u => exact ⟨u, rfl, Host.Outcome.next.inj h⟩
  | fault => cases h
  | refused => cases h

theorem clearDebugOf_ite (c : Prop) [Decidable c] (t u : State) :
    clearDebugOf (.next (if c then t else u)) = .next (if c then t.clearDebug else u.clearDebug) :=
  congrArg Host.Outcome.next (apply_ite State.clearDebug c t u)

theorem State.machinePart_sameMachine (s : State) : s.SameMachine s.machinePart :=
  ⟨rfl, rfl, rfl, rfl, rfl, rfl, rfl, rfl, rfl⟩

theorem State.machinePart_eq {s t : State} (h : s.SameMachine t) (hinit : t.initialised = s.initialised)
    (hdraws : t.draws = s.draws) (hin : t.inbox = s.inbox) : t.machinePart = s.machinePart := by
  simp only [State.machinePart, State.clearDebug, h.map, h.family, h.rom, h.stage, h.x0, h.x1, h.x2, h.ctrl, h.cram,
    hinit, hdraws, hin]

theorem State.eq_of_clearDebug_eq {s t : State} (h : t.clearDebug = s.clearDebug) :
    s.SameMachine t ∧ t.response = s.response ∧ t.inbox = s.inbox ∧ t.initialised = s.initialised ∧
      t.draws = s.draws := by
  simp only [State.clearDebug, State.mk.injEq, true_and] at h
  obtain ⟨hmap, hfamily, hrom, hstage, hx0, hx1, hx2, hctrl, hcram, hinit, hdraws, hin, hresp⟩ := h
  exact ⟨⟨hmap, hfamily, hrom, hstage, hx0, hx1, hx2, hctrl, hcram⟩, hresp, hin, hinit, hdraws⟩

/-! ### The operations of the commands -/

theorem State.writeEffect_machinePart (s : State) (a : Addr) (v : Byte) :
    s.machinePart.writeEffect a v = ((s.runToCheck a).writeEffect a v).machinePart := by
  have hfam : s.machinePart.family = s.family := rfl
  by_cases hdel : delegated s.family a = true
  · unfold State.writeEffect
    simp only [hfam, State.runToCheck_family, hdel, not_true_eq_false, if_false]
    cases s.family with
    | noRule | romOnly | sg1000 => rfl
    | sega | codemasters | korean =>
      simp only [apply_ite State.machinePart]
      rfl
  · rw [State.writeEffect_direct (s := s.machinePart) hdel, State.writeEffect_direct (s := s.runToCheck a) hdel]
    rfl

theorem State.restore_machinePart (s : State) (q : ByteSeq) : s.machinePart.restore q = (s.restore q).machinePart := by
  have hfam : s.machinePart.family = s.family := rfl
  unfold State.restore
  rw [hfam]
  cases s.family <;> rfl

theorem State.corrupt_machinePart (s : State) (q : ByteSeq) : s.machinePart.corrupt q = (s.corrupt q).machinePart := by
  unfold State.corrupt State.machinePart State.clearDebug
  cases s.family <;> simp only

theorem setRule_machinePart (fam : Family) (s : State) :
    setRule fam s.machinePart = (setRule fam s).clearDebug := by
  rw [setRule, setRule, apply_ite State.clearDebug]
  rfl

/-! ### The diagram -/

/-- The meaning of a command that is not a debug command commutes with clearing the debug registers. -/
theorem exec_machinePart {i : Instr} (hc : i.isProperCommand = true)
    (hcode : ¬ (0x40 ≤ i.code.toNat ∧ i.code.toNat ≤ 0x46)) (s : State) :
    exec i s.machinePart = clearDebugOf (exec i s) := by
  cases i with
  | read a p =>
    rw [exec_read, exec_read, s.machinePart_sameMachine.memRead]
    rfl
  | write a p v =>
    rw [exec_write, exec_write]
    exact congrArg (Host.Outcome.next ∘ State.done) (s.writeEffect_machinePart a v)
  | bpadd | bpremove | bpcount | bplist | runtoset | runtoclear | getrunto =>
    exact absurd ⟨Nat.le_of_ble_eq_true rfl, Nat.le_of_ble_eq_true rfl⟩ hcode
  | loadrom n data =>
    rw [exec_loadrom hc, exec_loadrom hc, clearDebugOf_ite]
    rfl
  | loadstate n data =>
    have hacc : s.machinePart.acceptable data = s.acceptable data := rfl
    by_cases ha : s.acceptable data = true
    · rw [exec_loadstate_acceptable hc (hacc.trans ha), exec_loadstate_acceptable hc ha, s.restore_machinePart]
      rfl
    · rw [exec_loadstate_mismatch hc (hacc ▸ ha), exec_loadstate_mismatch hc ha, s.corrupt_machinePart]
      rfl
  | setrule tag =>
    change execSetrule tag s.machinePart = clearDebugOf (execSetrule tag s)
    unfold execSetrule
    rcases Family.ofTag tag with _ | (_ | _)
    case none | some.noRule => rfl
    all_goals exact congrArg Host.Outcome.next (setRule_machinePart _ s)
  | reset | savestate | pokecram => exact .trans (by rfl) (clearDebugOf_ite ..).symm
  | rombank w =>
    change execRombank w s.machinePart = clearDebugOf (execRombank w s)
    have hfam : s.machinePart.family = s.family := rfl
    unfold execRombank
    rw [hfam]
    split_ifs
    · rfl
    · cases s.family <;> rfl
  | init | getrule | retrieve | load | statesize | rambank | peekrom | peekcram => rfl
  | _ => cases hc

/-- So does a step that takes such a command: the protocol does not look at the debug registers. -/
theorem step_machinePart {s : State} {r : Request} {rest : List Request} (h : s.inbox = r :: rest)
    (hcode : ¬ (0x40 ≤ (cmdField r.word).toNat ∧ (cmdField r.word).toNat ≤ 0x46)) :
    step s.machinePart = clearDebugOf (step s) := by
  have hp' : protocolRefusal r s.machinePart = protocolRefusal r s := rfl
  cases hp : protocolRefusal r s with
  | some e =>
    rw [step_refused h hp, step_refused (s := s.machinePart) h (hp'.trans hp)]
    rfl
  | none =>
    rw [step_perform h hp, step_perform (s := s.machinePart) h (hp'.trans hp)]
    cases hd : fetchDecode r with
    | error e => rfl
    | ok i =>
      rw [← code_of_decodeWord hd] at hcode
      exact exec_machinePart (decodeWord_isProperCommand (protocolRefusal_payload hp) i hd) hcode
        { s with inbox := rest }

/-- Settles O52: the two states have the same machine part, and the step commutes with taking it
(`step_machinePart`). -/
theorem debugStateNeverInfluencesTheMachine : Obligations.DebugStateNeverInfluencesTheMachine := by
  intro s s' t r rest hin hin' hsame hinit hdraws hcode hs
  have hnot : ¬ (0x40 ≤ (cmdField r.word).toNat ∧ (cmdField r.word).toNat ≤ 0x46) := by omega
  have hstep : clearDebugOf (step s') = .next t.clearDebug := by
    rw [← step_machinePart (hin'.trans hin) hnot, State.machinePart_eq hsame hinit hdraws hin',
      step_machinePart hin hnot, hs]
    rfl
  obtain ⟨t', hs', ht'⟩ := clearDebugOf_eq_next hstep
  exact ⟨t', hs', State.eq_of_clearDebug_eq ht'⟩

end Sys2Proof.Machine
end

section
/-! The hazards of R304: a command that breaks the protocol is refused (O8). -/

namespace Sys2Proof.Machine

/-- The protocol check passes the proper commands, and before the first INIT only INIT (R304, R36). -/
theorem protocolRefusal_eq_none_iff {s : State} {r : Request} :
    protocolRefusal r s = none ↔ r.Proper ∧ (s.initialised = true ∨ cmdField r.word = 0x10) := by
  refine ⟨fun h => ⟨?_, protocolRefusal_initialised h⟩, fun ⟨hr, hi⟩ => protocolRefusal_none hr hi⟩
  have hpayload := protocolRefusal_payload h
  unfold protocolRefusal at h
  split_ifs at h with halone hport hmid
  refine ⟨halone, not_not.mp hport, fun hhost => ?_, hpayload⟩
  cases htiming : r.timing with
  | quiescent => rfl
  | midInstruction => exact absurd ⟨hhost, htiming⟩ hmid
  | overlapping => exact absurd htiming halone

theorem step_refused_of_violation {s : State} {r : Request} {rest : List Request} (h : s.inbox = r :: rest)
    (hv : ¬ (r.Proper ∧ (s.initialised = true ∨ cmdField r.word = 0x10))) : ∃ e, step s = .refused e := by
  rw [← protocolRefusal_eq_none_iff, ← ne_eq, Option.ne_none_iff_exists'] at hv
  obtain ⟨e, he⟩ := hv
  exact ⟨e, step_refused h he⟩

/-- Settles O8: each clause breaks one of the conditions that the protocol check asks for. -/
theorem protocolViolationsAreRefused : Obligations.ProtocolViolationsAreRefused := by
  intro s r rest h
  refine ⟨fun hi hc => ?_, fun hport hc => ?_, fun hport h0 h1 => ?_, fun hport hmid => ?_, fun hc hsize => ?_,
    fun htiming => ?_⟩
  all_goals refine step_refused_of_violation h fun ⟨hr, hinit⟩ => ?_
  · exact hinit.elim (fun hyes => nomatch hi.symm.trans hyes) hc
  · have hcpu : commandPort (cmdField r.word) = .cpu := by rcases hc with hc | hc <;> rw [hc] <;> rfl
    exact nomatch hport.symm.trans (hr.onPort.trans hcpu)
  · have hhost : commandPort (cmdField r.word) = .host := by rw [commandPort, if_neg h0, if_neg h1]
    exact nomatch hport.symm.trans (hr.onPort.trans hhost)
  · exact nomatch hmid.symm.trans (hr.quiet hport)
  · exact hsize (hr.payload.1.trans (payloadLength_announced hc))
  · exact hr.alone htiming

end Sys2Proof.Machine
end
